-- ==== Sys2Proof/Word.lean ====
section
/-! DEFINITION. The word types of the machine (00_scope.md R7, R9). -/

namespace Sys2Proof

/-- A byte: 8 bits, bit 7 the most significant (R9). -/
abbrev Byte := BitVec 8

/-- A word: 24 bits, the width of every integer register and of a memory word (R7). -/
abbrev Word := BitVec 24

end Sys2Proof
end

