-- ==== Sys2Proof/Machine/Bits.lean ====
section
/-! DEFINITION. Values and bit fields of the notation (00_scope.md R9, R10) and the byte view of a word
(10_state.md R35, 20_memory.md R52). -/

namespace Sys2Proof.Machine

/-- `trunc24(v) = v mod 2^24`: the 24 bits a register or a memory word holds of an integer (R10). -/
def trunc24 (v : Int) : Word := BitVec.ofInt 24 v

/-- `s24(u)`: the signed reading of 24 bits, -8388608 to 8388607 (R10). -/
def s24 (u : Word) : Int := if u.toNat < 8388608 then (u.toNat : Int) else (u.toNat : Int) - 16777216

/-- `sext_12(v)`: the signed reading of a 12-bit displacement (R10). -/
def sext12 (v : BitVec 12) : Int := if v.toNat < 2048 then (v.toNat : Int) else (v.toNat : Int) - 4096

/-- Three bytes as a big-endian word: `M[a]*65536 + M[a+1]*256 + M[a+2]` (20_memory.md R52). -/
def wordOfBytes (b0 b1 b2 : Byte) : Word := BitVec.ofNat 24 (b0.toNat * 65536 + b1.toNat * 256 + b2.toNat)

/-- The bytes of a word in ascending address order, the most significant first (10_state.md R35). -/
def bytesOfWord (w : Word) : List Byte :=
  [BitVec.ofNat 8 (w.toNat / 65536), BitVec.ofNat 8 (w.toNat / 256), BitVec.ofNat 8 w.toNat]

/-- `w[7:0]`. -/
def lowByte (w : Word) : Byte := BitVec.ofNat 8 w.toNat

/-- `(w & 0xFFFF00) | v`: the low byte replaced, bits 23 to 8 kept (43_load_store.md R167). -/
def withLowByte (w : Word) (v : Byte) : Word := (w &&& 0xFFFF00#24) ||| v.setWidth 24

/-- `tdiv(a, b) = sign(a) * sign(b) * floor(|a| / |b|)`: the quotient truncated toward zero (42_format2.md R145). -/
def truncDiv (a b : Int) : Int := a.sign * b.sign * ((a.natAbs / b.natAbs : Nat) : Int)

/-- Rotation left by `c` within 24 bits: `((u << c) | (u >> (24 - c))) mod 2^24` (42_format2.md R147). -/
def rotateLeft24 (u : Word) (c : Nat) : Word := (u <<< c) ||| (u >>> (24 - c))

/-- `floor(v / 2^c)`: the arithmetic shift of a signed reading (42_format2.md R148). -/
def shiftRightFloor (v : Int) (c : Nat) : Int := v.fdiv ((2 ^ c : Nat) : Int)

end Sys2Proof.Machine
end

