-- ==== Sys2Proof/Machine/Sparse.lean ====
section
/-! DEFINITION. Sparse arrays: a list of key and value pairs in one canonical form (keys strictly rising, no pair
equal to what an unlisted key reads as). Memory and the device table are held so. -/

namespace Sys2Proof.Machine

/-- The value at a key; `dflt` is what an unlisted key reads as. -/
def sparseGet {α : Type} (dflt : Nat → α) : List (Nat × α) → Nat → α
  | [], k => dflt k
  | (j, v) :: rest, k => if j = k then v else sparseGet dflt rest k

/-- The pairs without those of a key. -/
def sparseErase {α : Type} (k : Nat) : List (Nat × α) → List (Nat × α)
  | [] => []
  | (j, v) :: rest => if j = k then sparseErase k rest else (j, v) :: sparseErase k rest

/-- A pair put before the first greater key. -/
def sparseInsert {α : Type} (k : Nat) (v : α) : List (Nat × α) → List (Nat × α)
  | [] => [(k, v)]
  | (j, w) :: rest => if k < j then (k, v) :: (j, w) :: rest else (j, w) :: sparseInsert k v rest

/-- The array with the value at a key replaced; a value the key reads as unlisted is not listed. -/
def sparsePut {α : Type} [DecidableEq α] (dflt : Nat → α) (l : List (Nat × α)) (k : Nat) (v : α) : List (Nat × α) :=
  if v = dflt k then sparseErase k l else sparseInsert k v (sparseErase k l)

/-- Every key of the list is greater than `k`. -/
def keysAbove {α : Type} (k : Nat) : List (Nat × α) → Bool
  | [] => true
  | (j, _) :: rest => decide (k < j) && keysAbove k rest

/-- The canonical form: keys strictly rising and below `bound`, no pair equal to what its key reads as unlisted. -/
def sparseWf {α : Type} [DecidableEq α] (dflt : Nat → α) (bound : Nat) : List (Nat × α) → Bool
  | [] => true
  | (k, v) :: rest => decide (k < bound) && decide (v ≠ dflt k) && keysAbove k rest && sparseWf dflt bound rest

end Sys2Proof.Machine
end

