-- ==== Sys2Proof/Config.lean ====
section
/-! DEFINITION. What is fixed for the machine, the device environment's answers, and the values the spec leaves open:
each of those is an opaque constant, so that no proof can know its value. -/

namespace Sys2Proof

/-- 2^20 bytes of memory: the addresses 0 to 0xFFFFF exist (20_memory.md R50). -/
def Config.memorySize : Nat := 0x100000

/-- The device table has 256 slots (60_exceptions.md R245). -/
def Config.deviceSlots : Nat := 256

/-- `MAX_RATE`, the highest clock speed in ticks per second, and the nanoseconds in a second (R251). -/
def Config.maxRate : Nat := 1000000000

/-- The device variants of 60_exceptions.md R247. -/
inductive DeviceKind where
  /-- The operator input stream: reads may wait, writes are ignored. -/
  | input
  /-- The operator output stream: reads yield 0. -/
  | output
  /-- The diagnostic stream: reads yield 0. -/
  | error
  /-- A backing file, opened lazily on first access. -/
  | file
  /-- Any other device the host put into the slot (R250): the environment answers everything. -/
  | other
  deriving DecidableEq, Repr, Inhabited

/-- One slot of the device table: the device, whether its backing file is open, its stream position (how many bytes it
has delivered) and the bytes handed to it, the oldest first (10_state.md R32, 60_exceptions.md R245 to R248). -/
structure Device where
  kind : DeviceKind
  opened : Bool
  bytesRead : Nat
  written : List Byte
  deriving DecidableEq, Repr, Inhabited

/-- The environment's answer to a device read (`DevReadOracle`, 60_exceptions.md R246, R249, R234). -/
inductive ReadAnswer where
  /-- The device delivers this byte. -/
  | byte (v : Byte)
  /-- The stream is at its end: the read yields 0 and is no fault (R247). -/
  | endOfStream
  /-- No byte is available yet: the read goes on waiting (R249). -/
  | noByteYet
  /-- The operation fails (R234) and leaves the device like this (40_decode_and_address.md R118). -/
  | failed (left : Device)
  deriving DecidableEq, Repr, Inhabited

/-- The environment's answer to a device write (60_exceptions.md R246). -/
inductive WriteAnswer where
  | accepted
  /-- The operation fails (R234) and leaves the device like this (40_decode_and_address.md R118). -/
  | failed (left : Device)
  deriving DecidableEq, Repr, Inhabited

/-- The environment's answer to a device test (`DevTestOracle`, 60_exceptions.md R246). -/
inductive TestAnswer where
  | available
  | unavailable
  /-- The operation fails (R234); the device stays as it was, since only a failing read or write may change it
  (40_decode_and_address.md R118). -/
  | failed
  deriving DecidableEq, Repr, Inhabited

/-- `DevReadOracle` (R8): what the environment answers a read of a slot, at a count of answered operations. DESIGN
CHOICE, log entry 2. -/
opaque Config.devReadOracle : Byte → Nat → ReadAnswer

/-- What the environment answers a write of a byte to a slot. DESIGN CHOICE, log entry 2. -/
opaque Config.devWriteOracle : Byte → Byte → Nat → WriteAnswer

/-- `DevTestOracle` (R8): what the environment answers a test of a slot. DESIGN CHOICE, log entry 2. -/
opaque Config.devTestOracle : Byte → Nat → TestAnswer

/-- Whether a test counts as the first access that opens a file device; the spec says only "on first access" (R248).
DESIGN CHOICE, log entry 6. -/
opaque Config.testOpensFile : Bool

/-- `INITIAL_SPEED_HZ` less one (00_scope.md R8): the spec gives the range 1 to 10^9 and no value. Log entry 7. -/
opaque Config.initialSpeedLessOne : Fin 1000000000

/-- `INITIAL_SPEED_HZ`, in 1 to 10^9 (R8). -/
def Config.initialSpeedHz : Nat := Config.initialSpeedLessOne.val + 1

/-- Whether a tick interval that is no whole number of nanoseconds is rounded up; the spec does not say
(70_reset_and_hazards.md R271). Log entry 8. -/
opaque Config.roundsIntervalUp : Nat → Bool

/-- `DEVICE_FILE_EXT`, the fixed extension of the names of file devices (00_scope.md R8). Log entry 19. -/
opaque Config.deviceFileExt : String

end Sys2Proof
end

