-- ==== Sys2Proof/Syntax.lean ====
section
/-! DEFINITION. The instructions: one constructor per row of spec/opcode_table.json (30_encoding.md R80), and the
operand forms of the F3_F4 family (R73 to R76). -/

namespace Sys2Proof

/-- The flags n, i, x, b, p of a Format-3 or Format-4 instruction (R75); e is the layout. -/
structure Flags where
  n : Bool
  i : Bool
  x : Bool
  b : Bool
  p : Bool
  deriving DecidableEq, Repr, Inhabited

/-- The three layouts of the F3_F4 family with their raw operand (R73, R74, R76, R84). -/
inductive Operand where
  /-- SIC-compatible: n = i = 0, three bytes, flag x and a 15-bit address (R76). -/
  | sic (x : Bool) (addr : BitVec 15)
  /-- Format 3: e = 0, three bytes, a 12-bit displacement (R73). -/
  | f3 (fl : Flags) (disp : BitVec 12)
  /-- Format 4: e = 1, four bytes, a 20-bit address (R74). -/
  | f4 (fl : Flags) (addr : BitVec 20)
  deriving DecidableEq, Repr, Inhabited

/-- The 59 instructions of the opcode map (R80), in the table's order. Fields that an instruction ignores (R83 (c))
are kept, so that no bit of an encoding is lost. -/
inductive Instr where
  /-- LDA, opcode 0x00: load A from a word or an immediate (R161). -/
  | lda (m : Operand)
  /-- LDX, opcode 0x04: load X (R162). -/
  | ldx (m : Operand)
  /-- LDL, opcode 0x08: load L (R163). -/
  | ldl (m : Operand)
  /-- STA, opcode 0x0C: store A (R169). -/
  | sta (m : Operand)
  /-- STX, opcode 0x10: store X (R170). -/
  | stx (m : Operand)
  /-- STL, opcode 0x14: store L (R171). -/
  | stl (m : Operand)
  /-- ADD, opcode 0x18: add to A (R191). -/
  | add (m : Operand)
  /-- SUB, opcode 0x1C: subtract from A (R192). -/
  | sub (m : Operand)
  /-- MUL, opcode 0x20: multiply A (R193). -/
  | mul (m : Operand)
  /-- DIV, opcode 0x24: divide A (R194). -/
  | div (m : Operand)
  /-- COMP, opcode 0x28: compare A (R197). -/
  | comp (m : Operand)
  /-- TIX, opcode 0x2C: increment X and compare (R198). -/
  | tix (m : Operand)
  /-- JEQ, opcode 0x30: jump if equal (R212). -/
  | jeq (m : Operand)
  /-- JGT, opcode 0x34: jump if greater (R213). -/
  | jgt (m : Operand)
  /-- JLT, opcode 0x38: jump if less (R214). -/
  | jlt (m : Operand)
  /-- J, opcode 0x3C: jump (R211). -/
  | j (m : Operand)
  /-- AND, opcode 0x40: bitwise and into A (R195). -/
  | and (m : Operand)
  /-- OR, opcode 0x44: bitwise or into A (R196). -/
  | or (m : Operand)
  /-- JSUB, opcode 0x48: call, the return address in L (R215). -/
  | jsub (m : Operand)
  /-- RSUB, opcode 0x4C: return to L (R216). -/
  | rsub (m : Operand)
  /-- LDCH, opcode 0x50: load the low byte of A (R167). -/
  | ldch (m : Operand)
  /-- STCH, opcode 0x54: store the low byte of A (R176). -/
  | stch (m : Operand)
  /-- ADDF, opcode 0x58: unimplemented (R199). -/
  | addf (m : Operand)
  /-- SUBF, opcode 0x5C: unimplemented (R200). -/
  | subf (m : Operand)
  /-- MULF, opcode 0x60: unimplemented (R201). -/
  | mulf (m : Operand)
  /-- DIVF, opcode 0x64: unimplemented (R202). -/
  | divf (m : Operand)
  /-- LDB, opcode 0x68: load B (R164). -/
  | ldb (m : Operand)
  /-- LDS, opcode 0x6C: load S (R165). -/
  | lds (m : Operand)
  /-- LDF, opcode 0x70: load F (R168). -/
  | ldf (m : Operand)
  /-- LDT, opcode 0x74: load T (R166). -/
  | ldt (m : Operand)
  /-- STB, opcode 0x78: store B (R172). -/
  | stb (m : Operand)
  /-- STS, opcode 0x7C: store S (R173). -/
  | sts (m : Operand)
  /-- STF, opcode 0x80: store F (R177). -/
  | stf (m : Operand)
  /-- STT, opcode 0x84: store T (R174). -/
  | stt (m : Operand)
  /-- COMPF, opcode 0x88: unimplemented (R203). -/
  | compf (m : Operand)
  /-- ADDR, opcode 0x90: add register r1 to r2 (R142). -/
  | addr (r1 r2 : BitVec 4)
  /-- SUBR, opcode 0x94: subtract register r1 from r2 (R143). -/
  | subr (r1 r2 : BitVec 4)
  /-- MULR, opcode 0x98: multiply r2 by r1 (R144). -/
  | mulr (r1 r2 : BitVec 4)
  /-- DIVR, opcode 0x9C: divide r2 by r1 (R145). -/
  | divr (r1 r2 : BitVec 4)
  /-- COMPR, opcode 0xA0: compare r1 with r2 (R146). -/
  | compr (r1 r2 : BitVec 4)
  /-- SHIFTL, opcode 0xA4: rotate r1 left by r2 + 1 (R147). -/
  | shiftl (r1 r2 : BitVec 4)
  /-- SHIFTR, opcode 0xA8: shift r1 right arithmetically by r2 + 1 (R148). -/
  | shiftr (r1 r2 : BitVec 4)
  /-- RMO, opcode 0xAC: copy r1 to r2 (R149). -/
  | rmo (r1 r2 : BitVec 4)
  /-- SVC, opcode 0xB0: supervisor call n = r1, unimplemented; r2 is ignored (R152). -/
  | svc (r1 r2 : BitVec 4)
  /-- CLEAR, opcode 0xB4: clear r1; r2 is ignored (R150). -/
  | clear (r1 r2 : BitVec 4)
  /-- TIXR, opcode 0xB8: increment X and compare with r1; r2 is ignored (R151). -/
  | tixr (r1 r2 : BitVec 4)
  /-- FLOAT, opcode 0xC0: unimplemented (R131). -/
  | float
  /-- FIX, opcode 0xC4: unimplemented (R132). -/
  | fix
  /-- NORM, opcode 0xC8: unimplemented (R133). -/
  | norm
  /-- LPS, opcode 0xD0: unimplemented (R224). -/
  | lps (m : Operand)
  /-- STI, opcode 0xD4: unimplemented (R225). -/
  | sti (m : Operand)
  /-- RD, opcode 0xD8: read a device (R221). -/
  | rd (m : Operand)
  /-- WD, opcode 0xDC: write a device (R222). -/
  | wd (m : Operand)
  /-- TD, opcode 0xE0: test a device (R223). -/
  | td (m : Operand)
  /-- STSW, opcode 0xE8: store SW (R175). -/
  | stsw (m : Operand)
  /-- SSK, opcode 0xEC: unimplemented (R226). -/
  | ssk (m : Operand)
  /-- SIO, opcode 0xF0: unimplemented (R134). -/
  | sio
  /-- HIO, opcode 0xF4: unimplemented (R135). -/
  | hio
  /-- TIO, opcode 0xF8: unimplemented (R136). -/
  | tio
  deriving DecidableEq, Repr

/-- The mnemonic of the row of spec/opcode_table.json an instruction belongs to (R80). -/
def Instr.mnemonic : Instr → String
  | .lda _ => "LDA"
  | .ldx _ => "LDX"
  | .ldl _ => "LDL"
  | .sta _ => "STA"
  | .stx _ => "STX"
  | .stl _ => "STL"
  | .add _ => "ADD"
  | .sub _ => "SUB"
  | .mul _ => "MUL"
  | .div _ => "DIV"
  | .comp _ => "COMP"
  | .tix _ => "TIX"
  | .jeq _ => "JEQ"
  | .jgt _ => "JGT"
  | .jlt _ => "JLT"
  | .j _ => "J"
  | .and _ => "AND"
  | .or _ => "OR"
  | .jsub _ => "JSUB"
  | .rsub _ => "RSUB"
  | .ldch _ => "LDCH"
  | .stch _ => "STCH"
  | .addf _ => "ADDF"
  | .subf _ => "SUBF"
  | .mulf _ => "MULF"
  | .divf _ => "DIVF"
  | .ldb _ => "LDB"
  | .lds _ => "LDS"
  | .ldf _ => "LDF"
  | .ldt _ => "LDT"
  | .stb _ => "STB"
  | .sts _ => "STS"
  | .stf _ => "STF"
  | .stt _ => "STT"
  | .compf _ => "COMPF"
  | .addr _ _ => "ADDR"
  | .subr _ _ => "SUBR"
  | .mulr _ _ => "MULR"
  | .divr _ _ => "DIVR"
  | .compr _ _ => "COMPR"
  | .shiftl _ _ => "SHIFTL"
  | .shiftr _ _ => "SHIFTR"
  | .rmo _ _ => "RMO"
  | .svc _ _ => "SVC"
  | .clear _ _ => "CLEAR"
  | .tixr _ _ => "TIXR"
  | .float => "FLOAT"
  | .fix => "FIX"
  | .norm => "NORM"
  | .lps _ => "LPS"
  | .sti _ => "STI"
  | .rd _ => "RD"
  | .wd _ => "WD"
  | .td _ => "TD"
  | .stsw _ => "STSW"
  | .ssk _ => "SSK"
  | .sio => "SIO"
  | .hio => "HIO"
  | .tio => "TIO"

end Sys2Proof
end

