-- ==== Sys2Proof/Machine/State.lean ====
section
/-! DEFINITION. The state of the machine as plain data, the kinds of fault, and the state after reset. -/

namespace Sys2Proof.Machine

/-- The two kinds of Decode Failure (60_exceptions.md R231). -/
inductive DecodeFailure where
  /-- Raised by the step when `classify` yields nothing; records the byte. Safe: the spec's own fault (R102). -/
  | unknownOpcode (b1 : Byte)
  /-- Raised by `resolve` for Format 3, not immediate, (b,p) = (0,0) or (1,1); records the flags (e is 0 there). Safe:
  the spec's own fault (R112). -/
  | invalidAddressing (flags : Flags)
  deriving DecidableEq, Repr

/-- The fault kinds K with their recorded information (60_exceptions.md R230). A fault is TAKEN: the step answers the
next state, in which the latch `FAULT` holds the kind (R239); no step of this model ends in `Outcome.fault`. -/
inductive Fault where
  /-- Code 1 or 2, raised by the step or by `resolve` (R231). Safe. -/
  | decodeFailure (d : DecodeFailure)
  /-- Code 3, raised by the 15 unimplemented opcodes, by immediate LDF and by register index 6 (R232). Safe. -/
  | unimplemented (mnemonic : String)
  /-- Code 4, raised by DIV and DIVR with a zero divisor (R233). Safe. -/
  | arithmetic
  /-- Code 5, raised by RD, WD and TD when the environment's operation fails; records the device (R234). Safe. -/
  | device (d : Byte)
  /-- Code 6, raised by an access outside 0 to 0xFFFFF; records its first address (R235). Safe. -/
  | addressRange (addr : Int)
  /-- Code 7, raised by a register field 7 or 10 to 15 (R236). Safe. -/
  | registerIndex (k : BitVec 4)
  /-- Code 8, raised by nothing: kept because the spec asks for it, and unreachable (R108, R237). Safe. -/
  | internalDispatch (opcode : Byte)
  deriving DecidableEq, Repr

/-- Reasons a step has no meaning. Every instruction has one, so nothing raises them. -/
inductive Refusal where
  /-- Raised by nothing: an arm of `exec` would raise it for an instruction without a meaning. Safe. -/
  | notModelled (mnemonic : String)
  deriving DecidableEq, Repr

/-- The float register: six bytes with no numeric reading (10_state.md R26). -/
structure FReg where
  f0 : Byte
  f1 : Byte
  f2 : Byte
  f3 : Byte
  f4 : Byte
  f5 : Byte
  deriving DecidableEq, Repr

/-- The integer register slots by name (10_state.md R20). -/
inductive Reg where
  | a | x | l | b | s | t | pc | sw
  deriving DecidableEq, Repr

/-- The clock controller: stopped, or running with the interval of its active timer in nanoseconds (60_exceptions.md
R251; 70_reset_and_hazards.md R268: a running timer keeps its interval when the speed changes). -/
inductive RunState where
  | stopped
  | running (intervalNs : Nat)
  deriving DecidableEq, Repr

/-- Memory: the bytes that are not 0, by strictly rising address (`Memory.wf`). -/
abbrev Memory := List Host.Cell

/-- The device table: the slots that differ from how construction populates them, by strictly rising index. -/
abbrev DeviceTable := List (Nat × Device)

/-- Everything the spec gives the machine (10_state.md R20 to R32, R33), and what the environment answers. -/
structure State where
  /-- A, the accumulator (R20). -/
  regA : Word
  /-- X, the index register (R20). -/
  regX : Word
  /-- L, the linkage register (R20). -/
  regL : Word
  /-- B, the base register (R20). -/
  regB : Word
  /-- S (R20). -/
  regS : Word
  /-- T (R20). -/
  regT : Word
  /-- PC, the program counter (R24). -/
  regPC : Word
  /-- SW, the status word: the whole register is the condition code (R27). -/
  regSW : Word
  /-- F, the float register (R26). -/
  regF : FReg
  /-- M, the memory (R32; 20_memory.md R50). -/
  mem : Memory
  /-- DEV, the device table (R32; 60_exceptions.md R245). -/
  devices : DeviceTable
  /-- FAULT, the latch (R30). -/
  fault : Option Fault
  /-- The device whose read the unfinished step is waiting on (60_exceptions.md R249). Log entry 3. -/
  waiting : Option Byte
  /-- RUN (R31). -/
  run : RunState
  /-- SPEED, in ticks per second (R31). -/
  speed : Nat
  /-- The environment's next answers to device reads. The model's own, log entry 2. -/
  readAnswers : List ReadAnswer
  /-- The environment's next answers to device writes. The model's own, log entry 2. -/
  writeAnswers : List WriteAnswer
  /-- The environment's next answers to device tests. The model's own, log entry 2. -/
  testAnswers : List TestAnswer
  /-- How many device operations the environment has answered. The model's own, log entry 2. -/
  envTime : Nat
  deriving DecidableEq, Repr

/-- The state after reset, which is construction (10_state.md R33; 70_reset_and_hazards.md R260, R261): all registers
and all of memory zero, no fault, the clock stopped at `INITIAL_SPEED_HZ`, the standard devices, no file open. -/
def State.reset : State where
  regA := 0
  regX := 0
  regL := 0
  regB := 0
  regS := 0
  regT := 0
  regPC := 0
  regSW := 0
  regF := ⟨0, 0, 0, 0, 0, 0⟩
  mem := []
  devices := []
  fault := none
  waiting := none
  run := .stopped
  speed := Config.initialSpeedHz
  readAnswers := []
  writeAnswers := []
  testAnswers := []
  envTime := 0

end Sys2Proof.Machine
end

