-- ==== Sys2Proof/Machine/Ops.lean ====
section
/-! DEFINITION. The named operations over registers, memory and the fault latch: the only way the meanings read or
write the state. -/

namespace Sys2Proof.Machine

/-- The outcome of a step of this machine. -/
abbrev StepResult := Host.Outcome State Fault Refusal

/-! ### Registers -/

/-- The 24 bits held in a register slot (10_state.md R20, R21). -/
def State.get (s : State) : Reg → Word
  | .a => s.regA
  | .x => s.regX
  | .l => s.regL
  | .b => s.regB
  | .s => s.regS
  | .t => s.regT
  | .pc => s.regPC
  | .sw => s.regSW

/-- The state with 24 bits put into a register slot. -/
def State.set (s : State) (r : Reg) (w : Word) : State :=
  match r with
  | .a => { s with regA := w }
  | .x => { s with regX := w }
  | .l => { s with regL := w }
  | .b => { s with regB := w }
  | .s => { s with regS := w }
  | .t => { s with regT := w }
  | .pc => { s with regPC := w }
  | .sw => { s with regSW := w }

/-- `x[k]`: a register read yields the signed reading of its bits (10_state.md R21, 00_scope.md R11). -/
def State.read (s : State) (r : Reg) : Int := s24 (s.get r)

/-- `x[k] <- v`: a register write stores `trunc24(v)` (10_state.md R21, 00_scope.md R11). -/
def State.write (s : State) (r : Reg) (v : Int) : State := s.set r (trunc24 v)

/-- The state with F replaced (10_state.md R26). -/
def State.setF (s : State) (f : FReg) : State := { s with regF := f }

/-- The six bytes of F in order, F[0] first (R26). -/
def FReg.toList (f : FReg) : List Byte := [f.f0, f.f1, f.f2, f.f3, f.f4, f.f5]

/-! ### Memory -/

/-- What an address that is not listed reads as: every byte is 0 at construction (10_state.md R33). -/
def Memory.unlisted (_ : Nat) : Byte := 0

/-- The byte at an address. -/
def Memory.read (m : Memory) (a : Nat) : Byte := sparseGet Memory.unlisted m a

/-- The memory with the byte at an address replaced. -/
def Memory.write (m : Memory) (a : Nat) (v : Byte) : Memory := sparsePut Memory.unlisted m a v

/-- The memory with bytes replaced from an address on, in ascending address order. -/
def Memory.writeBytes (m : Memory) (a : Nat) : List Byte → Memory
  | [] => m
  | v :: rest => (m.write a v).writeBytes (a + 1) rest

/-- The canonical form of memory, with every listed address below 2^20. -/
def Memory.wf (m : Memory) : Bool := sparseWf Memory.unlisted Config.memorySize m

/-- The byte of the state's memory at an address. -/
def State.byteAt (s : State) (a : Nat) : Byte := s.mem.read a

/-- The state with its memory replaced. -/
def State.setMem (s : State) (m : Memory) : State := { s with mem := m }

/-- The range rule: an access of n bytes at a is legal exactly when 0 <= a and a + n - 1 <= 0xFFFFF (20_memory.md
R53). -/
def inRange (a : Int) (n : Nat) : Bool := decide (0 ≤ a) && decide (a + (n : Int) ≤ (Config.memorySize : Int))

/-- `MemRead(a, 1)` (00_scope.md R12). -/
def memRead1 (s : State) (a : Int) : Except Fault Byte :=
  if inRange a 1 then .ok (s.byteAt a.toNat) else .error (.addressRange a)

/-- `MemRead(a, 3)`: the big-endian word at a (00_scope.md R12, 20_memory.md R52). -/
def memRead3 (s : State) (a : Int) : Except Fault Word :=
  if inRange a 3 then
    .ok (wordOfBytes (s.byteAt a.toNat) (s.byteAt (a.toNat + 1)) (s.byteAt (a.toNat + 2)))
  else .error (.addressRange a)

/-- `MemReadBytes(a, 6)`: six bytes in address order (00_scope.md R12). -/
def memRead6 (s : State) (a : Int) : Except Fault FReg :=
  if inRange a 6 then
    .ok ⟨s.byteAt a.toNat, s.byteAt (a.toNat + 1), s.byteAt (a.toNat + 2), s.byteAt (a.toNat + 3),
      s.byteAt (a.toNat + 4), s.byteAt (a.toNat + 5)⟩
  else .error (.addressRange a)

/-- `MemWrite` and `MemWriteBytes`: the bytes stored from a on, nothing when any of them is out of range (00_scope.md
R12, 20_memory.md R53). -/
def memWrite (s : State) (a : Int) (bs : List Byte) : Except Fault State :=
  if inRange a bs.length then .ok (s.setMem (s.mem.writeBytes a.toNat bs)) else .error (.addressRange a)

/-! ### Faults -/

/-- The state with the latch set (10_state.md R30). -/
def State.setFault (s : State) (k : Option Fault) : State := { s with fault := k }

/-- `raise K(info)`, the one way a fault is taken: FAULT holds K; PC, the other registers, memory and the devices stay
as they are when it is raised (60_exceptions.md R239). The spec has no return from a fault (R241): only reset, which
puts the machine into `State.reset`, clears the latch. -/
def raise (k : Fault) (s : State) : StepResult := .next (s.setFault (some k))

/-- Go on with the value of a check or a read, or raise the fault it met. -/
def onOk {α : Type} (r : Except Fault α) (s : State) (go : α → StepResult) : StepResult :=
  match r with
  | .ok v => go v
  | .error k => raise k s

/-- The reference numbers of the fault kinds (60_exceptions.md R230). -/
def Fault.code : Fault → Nat
  | .decodeFailure (.unknownOpcode _) => 1
  | .decodeFailure (.invalidAddressing _) => 2
  | .unimplemented _ => 3
  | .arithmetic => 4
  | .device _ => 5
  | .addressRange _ => 6
  | .registerIndex _ => 7
  | .internalDispatch _ => 8

/-- What the host can learn of an invocation of the core. -/
inductive StepReport where
  /-- `Ok` (00_scope.md R16). -/
  | ok
  /-- `Halt(K)` (00_scope.md R16). -/
  | halt (k : Fault)
  /-- Neither yet: the step waits on a device and has not finished (60_exceptions.md R249). That an invocation of the
  model ends there and reports so is the model's own. DESIGN CHOICE, log entry 23. -/
  | unfinished
  deriving DecidableEq, Repr

/-- What the host learns after a step, read from the state the step ends in (60_exceptions.md R256): a step returns
`Halt(K)` exactly when it leaves K in the latch (10_state.md R30). Of a step whose read is still blocked the spec says
only that it has not finished (R249), and gives it neither `Ok` nor `Halt`; that the report can be read then, and is
`unfinished`, is the model's choice. DESIGN CHOICE, log entry 23. -/
def State.report (s : State) : StepReport :=
  match s.fault, s.waiting with
  | some k, _ => .halt k
  | none, some _ => .unfinished
  | none, none => .ok

/-! ### Where the next instruction is placed -/

/-- The state made ready to run four bytes as its next instruction: no fault latched, no read waited on, and PC at an
address that has four bytes (PC stays where it is when it has). -/
def State.readyToFetch (s : State) : State :=
  let t : State := { s with fault := none, waiting := none }
  if t.regPC.toNat + 4 ≤ Config.memorySize then t else { t with regPC := 0 }

/-- Bytes stored at PC, where the next step fetches. -/
def State.placeAtPC (s : State) (bs : List Byte) : State := s.setMem (s.mem.writeBytes s.regPC.toNat bs)

end Sys2Proof.Machine
end

