-- ==== Sys2Proof/Machine/Flags.lean ====
section
/-! DEFINITION. The condition code: the value of the whole register SW (10_state.md R27). There are no flag bits. -/

namespace Sys2Proof.Machine

/-- `cmp(a, b)`: -1 if a < b, 0 if a = b, +1 if a > b (00_scope.md R15). -/
def cmp (a b : Int) : Int := if a < b then -1 else if a = b then 0 else 1

/-- `SW <- cmp(a, b)`, what COMP, COMPR, TIX and TIXR write (10_state.md R27). -/
def State.compare (s : State) (a b : Int) : State := s.write .sw (cmp a b)

/-- "Less": the signed reading of SW is negative (45_jump.md R214). -/
def State.isLess (s : State) : Bool := decide (s.read .sw < 0)

/-- "Equal": SW is 0 (45_jump.md R212). -/
def State.isEqual (s : State) : Bool := decide (s.read .sw = 0)

/-- "Greater": the signed reading of SW is positive (45_jump.md R213). -/
def State.isGreater (s : State) : Bool := decide (s.read .sw > 0)

end Sys2Proof.Machine
end

