-- ==== Sys2Proof/Machine/Format1.lean ====
section
/-! DEFINITION. The Format-1 instructions (41_format1.md): all six raise UnimplementedInstruction (R130). -/

namespace Sys2Proof.Machine

/-- `raise UnimplementedInstruction(mnemonic)` (60_exceptions.md R232). -/
def unimplemented (mnemonic : String) (s : State) : StepResult := raise (.unimplemented mnemonic) s

/-- FLOAT (R131). -/
def execFloat (s : State) : StepResult := unimplemented "FLOAT" s

/-- FIX (R132). -/
def execFix (s : State) : StepResult := unimplemented "FIX" s

/-- NORM (R133). -/
def execNorm (s : State) : StepResult := unimplemented "NORM" s

/-- SIO (R134). -/
def execSio (s : State) : StepResult := unimplemented "SIO" s

/-- HIO (R135). -/
def execHio (s : State) : StepResult := unimplemented "HIO" s

/-- TIO (R136). -/
def execTio (s : State) : StepResult := unimplemented "TIO" s

end Sys2Proof.Machine
end

