-- ==== Sys2Proof/Machine/Operands.lean ====
section
/-! DEFINITION. The operand forms: the memory address unit (40_decode_and_address.md R110 to R114), the operand values
(R115) and the register-index check of Format 2 (42_format2.md R141). -/

namespace Sys2Proof.Machine

/-- The raw operand as an unsigned integer (30_encoding.md R84). -/
def rawOperand : Operand → Nat
  | .sic _ addr => addr.toNat
  | .f3 _ disp => disp.toNat
  | .f4 _ addr => addr.toNat

/-- n = 0 and i = 1 (30_encoding.md R75). -/
def isImmediate : Operand → Bool
  | .sic _ _ => false
  | .f3 fl _ => !fl.n && fl.i
  | .f4 fl _ => !fl.n && fl.i

/-- n = 1 and i = 0 (30_encoding.md R75). -/
def isIndirect : Operand → Bool
  | .sic _ _ => false
  | .f3 fl _ => fl.n && !fl.i
  | .f4 fl _ => fl.n && !fl.i

/-- x = 1 (30_encoding.md R75, R76). -/
def isIndexed : Operand → Bool
  | .sic x _ => x
  | .f3 fl _ => fl.x
  | .f4 fl _ => fl.x

/-- TA before indirection and indexing: absolute in the SIC-compatible layout and in Format 4 (R113), relative to PC or
to B in Format 3, where exactly one of p and b must be set (R112). -/
def targetAddress (s : State) : Operand → Except Fault Int
  | .sic _ addr => .ok (addr.toNat : Int)
  | .f4 _ addr => .ok (addr.toNat : Int)
  | .f3 fl disp =>
    match fl.b, fl.p with
    | false, true => .ok (s.read .pc + sext12 disp)
    | true, false => .ok (s.read .b + (disp.toNat : Int))
    | _, _ => .error (.decodeFailure (.invalidAddressing fl))

/-- One level of indirection: the word at the address, read unsigned, is the new address (R114). -/
def indirection (s : State) (m : Operand) (ta : Int) : Except Fault Int :=
  if isIndirect m then
    match memRead3 s ta with
    | .ok w => .ok (w.toNat : Int)
    | .error k => .error k
  else .ok ta

/-- Indexing, after the indirection: X is added, read signed (R114). -/
def indexing (s : State) (m : Operand) (ta : Int) : Int :=
  if isIndexed m then ta + s.read .x else ta

/-- `Resolve`: the raw operand when immediate, else the effective address, an exact integer (R110, R111). It writes
nothing. -/
def resolve (s : State) (m : Operand) : Except Fault Int :=
  if isImmediate m then .ok (rawOperand m : Int)
  else
    match targetAddress s m with
    | .error k => .error k
    | .ok ta =>
      match indirection s m ta with
      | .error k => .error k
      | .ok ta' => .ok (indexing s m ta')

/-- `OperandWord(U)` after `U <- Resolve`: the raw operand when immediate, else the signed reading of the word at U
(R115). -/
def operandWord (s : State) (m : Operand) : Except Fault Int :=
  match resolve s m with
  | .error k => .error k
  | .ok u =>
    if isImmediate m then .ok u
    else
      match memRead3 s u with
      | .ok w => .ok (s24 w)
      | .error k => .error k

/-- `OperandByte(U)` after `U <- Resolve`: the low 8 bits of the raw operand when immediate, else the byte at U
(R115). -/
def operandByte (s : State) (m : Operand) : Except Fault Byte :=
  match resolve s m with
  | .error k => .error k
  | .ok u => if isImmediate m then .ok (BitVec.ofInt 8 u) else memRead1 s u

/-- `CheckReg(k)`: the register slot of an index; index 6 is F, which has no index-addressed access, and 7 and 10 to 15
name nothing (42_format2.md R141, 10_state.md R20, R22). -/
def checkReg (mnemonic : String) (k : BitVec 4) : Except Fault Reg :=
  match k.toNat with
  | 0 => .ok .a
  | 1 => .ok .x
  | 2 => .ok .l
  | 3 => .ok .b
  | 4 => .ok .s
  | 5 => .ok .t
  | 6 => .error (.unimplemented mnemonic)
  | 8 => .ok .pc
  | 9 => .ok .sw
  | _ => .error (.registerIndex k)

/-- Go on with the slots of two register fields: r1 checked first, then r2, before any register is read (R141). -/
def withRegs (mnemonic : String) (r1 r2 : BitVec 4) (s : State) (go : Reg → Reg → StepResult) : StepResult :=
  onOk (checkReg mnemonic r1) s fun p => onOk (checkReg mnemonic r2) s fun q => go p q

end Sys2Proof.Machine
end

