-- ==== Sys2Proof/Machine/Format2.lean ====
section
/-! DEFINITION. The Format-2 register instructions (42_format2.md). PC has advanced past both bytes when they act, so a
read of index 8 yields that value and a write to index 8 is a jump (R140). -/

namespace Sys2Proof.Machine

/-- `x[r2] <- f(x[r2], x[r1])` after both register checks. -/
def arithRegs (mnemonic : String) (f : Int → Int → Int) (r1 r2 : BitVec 4) (s : State) : StepResult :=
  withRegs mnemonic r1 r2 s fun p q => .next (s.write q (f (s.read q) (s.read p)))

/-- ADDR r1,r2: `x[r2] <- x[r2] + x[r1]` (R142). -/
def execAddr (r1 r2 : BitVec 4) (s : State) : StepResult := arithRegs "ADDR" (· + ·) r1 r2 s

/-- SUBR r1,r2: `x[r2] <- x[r2] - x[r1]` (R143). -/
def execSubr (r1 r2 : BitVec 4) (s : State) : StepResult := arithRegs "SUBR" (· - ·) r1 r2 s

/-- MULR r1,r2: `x[r2] <- x[r2] * x[r1]`, the exact product truncated at the write (R144). -/
def execMulr (r1 r2 : BitVec 4) (s : State) : StepResult := arithRegs "MULR" (· * ·) r1 r2 s

/-- DIVR r1,r2: ArithmeticFault on a zero divisor, after the register checks; else `x[r2] <- tdiv(x[r2], x[r1])`
(R145). -/
def execDivr (r1 r2 : BitVec 4) (s : State) : StepResult :=
  withRegs "DIVR" r1 r2 s fun p q =>
    if s.read p = 0 then raise .arithmetic s else .next (s.write q (truncDiv (s.read q) (s.read p)))

/-- COMPR r1,r2: `SW <- cmp(x[r1], x[r2])` (R146). -/
def execCompr (r1 r2 : BitVec 4) (s : State) : StepResult :=
  withRegs "COMPR" r1 r2 s fun p q => .next (s.compare (s.read p) (s.read q))

/-- The count of a shift: the r2 field plus 1, 1 to 16 (R147, R148). -/
def shiftCount (r2 : BitVec 4) : Nat := r2.toNat + 1

/-- SHIFTL r1,n: rotate left within 24 bits (R147). -/
def execShiftl (r1 r2 : BitVec 4) (s : State) : StepResult :=
  onOk (checkReg "SHIFTL" r1) s fun p => .next (s.set p (rotateLeft24 (s.get p) (shiftCount r2)))

/-- SHIFTR r1,n: arithmetic shift right (R148). -/
def execShiftr (r1 r2 : BitVec 4) (s : State) : StepResult :=
  onOk (checkReg "SHIFTR" r1) s fun p => .next (s.write p (shiftRightFloor (s.read p) (shiftCount r2)))

/-- RMO r1,r2: `x[r2] <- x[r1]` (R149). -/
def execRmo (r1 r2 : BitVec 4) (s : State) : StepResult :=
  withRegs "RMO" r1 r2 s fun p q => .next (s.write q (s.read p))

/-- SVC n: raises UnimplementedInstruction, no field is checked (R152). -/
def execSvc (s : State) : StepResult := unimplemented "SVC" s

/-- CLEAR r1: `x[r1] <- 0`; r2 is ignored (R150). -/
def execClear (r1 : BitVec 4) (s : State) : StepResult :=
  onOk (checkReg "CLEAR" r1) s fun p => .next (s.write p 0)

/-- `X <- X + 1`. -/
def State.incrementX (s : State) : State := s.write .x (s.read .x + 1)

/-- TIXR r1: `X <- X + 1`, then `SW <- cmp(X, x[r1])`, both read after the write of X; r2 is ignored (R151). -/
def execTixr (r1 : BitVec 4) (s : State) : StepResult :=
  onOk (checkReg "TIXR" r1) s fun p =>
    .next (s.incrementX.compare (s.incrementX.read .x) (s.incrementX.read p))

end Sys2Proof.Machine
end

