-- ==== Sys2Proof/Machine/Arith.lean ====
section
/-! DEFINITION. Arithmetic, logic and compare instructions with a memory operand (44_arith_logic_compare.md). -/

namespace Sys2Proof.Machine

/-- `m <- OperandWord(U); A <- f(A, m)`, exact on signed readings, truncated at the write (R190). -/
def arithA (f : Int → Int → Int) (m : Operand) (s : State) : StepResult :=
  onOk (operandWord s m) s fun v => .next (s.write .a (f (s.read .a) v))

/-- ADD m (R191). -/
def execAdd (m : Operand) (s : State) : StepResult := arithA (· + ·) m s

/-- SUB m (R192). -/
def execSub (m : Operand) (s : State) : StepResult := arithA (· - ·) m s

/-- MUL m (R193). -/
def execMul (m : Operand) (s : State) : StepResult := arithA (· * ·) m s

/-- DIV m: ArithmeticFault on a zero operand; else `A <- tdiv(A, m)` (R194). -/
def execDiv (m : Operand) (s : State) : StepResult :=
  onOk (operandWord s m) s fun v =>
    if v = 0 then raise .arithmetic s else .next (s.write .a (truncDiv (s.read .a) v))

/-- AND m: bitwise on 24 bits (R195). -/
def execAnd (m : Operand) (s : State) : StepResult :=
  onOk (operandWord s m) s fun v => .next (s.set .a (s.get .a &&& trunc24 v))

/-- OR m: bitwise on 24 bits (R196). -/
def execOr (m : Operand) (s : State) : StepResult :=
  onOk (operandWord s m) s fun v => .next (s.set .a (s.get .a ||| trunc24 v))

/-- COMP m: `SW <- cmp(A, m)` (R197). -/
def execComp (m : Operand) (s : State) : StepResult :=
  onOk (operandWord s m) s fun v => .next (s.compare (s.read .a) v)

/-- TIX m: the operand is read with the old X; then `X <- X + 1` and `SW <- cmp(X, m)` with the new X (R198). -/
def execTix (m : Operand) (s : State) : StepResult :=
  onOk (operandWord s m) s fun v => .next (s.incrementX.compare (s.incrementX.read .x) v)

/-- ADDF (R199). -/
def execAddf (s : State) : StepResult := unimplemented "ADDF" s

/-- SUBF (R200). -/
def execSubf (s : State) : StepResult := unimplemented "SUBF" s

/-- MULF (R201). -/
def execMulf (s : State) : StepResult := unimplemented "MULF" s

/-- DIVF (R202). -/
def execDivf (s : State) : StepResult := unimplemented "DIVF" s

/-- COMPF (R203). -/
def execCompf (s : State) : StepResult := unimplemented "COMPF" s

end Sys2Proof.Machine
end

