-- ==== Sys2Proof/Machine/Devices.lean ====
section
/-! DEFINITION. The device table and the device primitives (60_exceptions.md R245 to R250), and the device and system
instructions (46_device_system.md). -/

namespace Sys2Proof.Machine

/-- How construction populates a slot: 0 input, 1 output, 2 error, the others file devices with no file open
(60_exceptions.md R245, 10_state.md R33). -/
def standardDevice (d : Nat) : Device :=
  { kind := if d = 0 then .input else if d = 1 then .output else if d = 2 then .error else .file
    opened := false
    bytesRead := 0
    written := [] }

/-- The device in a slot. -/
def State.device (s : State) (d : Byte) : Device := sparseGet standardDevice s.devices d.toNat

/-- The state with the device of a slot replaced. -/
def State.setDevice (s : State) (d : Byte) (dev : Device) : State :=
  { s with devices := sparsePut standardDevice s.devices d.toNat dev }

/-- The canonical form of the device table. -/
def DeviceTable.wf (t : DeviceTable) : Bool := sparseWf standardDevice Config.deviceSlots t

/-- The state with the unfinished step's device set. -/
def State.setWaiting (s : State) (w : Option Byte) : State := { s with waiting := w }

/-- The environment's answer to a read: the next one lined up, else a free value (log entry 2). -/
def State.readAnswer (s : State) (d : Byte) : ReadAnswer :=
  match s.readAnswers with
  | ans :: _ => ans
  | [] => Config.devReadOracle d s.envTime

/-- The environment's answer to a write of v. -/
def State.writeAnswer (s : State) (d v : Byte) : WriteAnswer :=
  match s.writeAnswers with
  | ans :: _ => ans
  | [] => Config.devWriteOracle d v s.envTime

/-- The environment's answer to a test. -/
def State.testAnswer (s : State) (d : Byte) : TestAnswer :=
  match s.testAnswers with
  | ans :: _ => ans
  | [] => Config.devTestOracle d s.envTime

/-- The state after a read was answered. -/
def State.readAnswered (s : State) : State :=
  { s with readAnswers := s.readAnswers.tail, envTime := s.envTime + 1 }

/-- The state after a write was answered. -/
def State.writeAnswered (s : State) : State :=
  { s with writeAnswers := s.writeAnswers.tail, envTime := s.envTime + 1 }

/-- The state after a test was answered. -/
def State.testAnswered (s : State) : State :=
  { s with testAnswers := s.testAnswers.tail, envTime := s.envTime + 1 }

/-- A device after an access: a file device's backing file is open (60_exceptions.md R248). -/
def Device.accessed (dev : Device) : Device := { dev with opened := dev.opened || dev.kind == .file }

/-- A device after a test: whether a test opens a file device's file is open in the spec (log entry 6). -/
def Device.tested (dev : Device) : Device :=
  { dev with opened := dev.opened || (dev.kind == .file && Config.testOpensFile) }

/-- The device after it delivered a byte: its stream is one byte further on (46_device_system.md R221). -/
def Device.delivered (dev : Device) : Device := { Device.accessed dev with bytesRead := dev.bytesRead + 1 }

/-- The device after it took a byte. -/
def Device.received (dev : Device) (v : Byte) : Device :=
  { Device.accessed dev with written := dev.written ++ [v] }

/-- The device after a failed read or write: whatever the operation left (40_decode_and_address.md R118), in the same
variant (log entry 5). -/
def Device.afterFailure (dev left : Device) : Device := { left with kind := dev.kind }

/-- The end of a device operation. -/
inductive DeviceResult (α : Type) where
  /-- It completed with a value. -/
  | done (v : α) (s : State)
  /-- It has not completed: no byte is available yet. -/
  | blocked (s : State)
  /-- It failed. -/
  | failed (s : State)

/-- `DevRead(d)`: an output or error device yields 0 (60_exceptions.md R247); the others answer from the environment. -/
def devRead (d : Byte) (s : State) : DeviceResult Byte :=
  match (s.device d).kind with
  | .output => .done 0 s
  | .error => .done 0 s
  | .input | .file | .other =>
    match s.readAnswer d with
    | .byte v => .done v (s.readAnswered.setDevice d (Device.delivered (s.device d)))
    | .endOfStream => .done 0 (s.readAnswered.setDevice d (Device.accessed (s.device d)))
    | .noByteYet => .blocked s.readAnswered
    | .failed left => .failed (s.readAnswered.setDevice d (Device.afterFailure (s.device d) left))

/-- `DevWrite(d, v)`: an input device ignores it (60_exceptions.md R247); the others take the byte or fail. -/
def devWrite (d v : Byte) (s : State) : DeviceResult Unit :=
  match (s.device d).kind with
  | .input => .done () s
  | .output | .error | .file | .other =>
    match s.writeAnswer d v with
    | .accepted => .done () (s.writeAnswered.setDevice d (Device.received (s.device d) v))
    | .failed left => .failed (s.writeAnswered.setDevice d (Device.afterFailure (s.device d) left))

/-- `DevTest(d)`: what it returns for each variant is the environment's choice (60_exceptions.md R246); a failing test
leaves every device as it was (40_decode_and_address.md R118). -/
def devTest (d : Byte) (s : State) : DeviceResult Bool :=
  match s.testAnswer d with
  | .available => .done true (s.testAnswered.setDevice d (Device.tested (s.device d)))
  | .unavailable => .done false (s.testAnswered.setDevice d (Device.tested (s.device d)))
  | .failed => .failed s.testAnswered

/-- The device operation of RD and what follows it: the byte into the low byte of A, a wait, or DeviceFault with A
unchanged (46_device_system.md R221, 60_exceptions.md R249). -/
def finishRead (d : Byte) (s : State) : State :=
  match devRead d s with
  | .done v t => (t.set .a (withLowByte (t.get .a) v)).setWaiting none
  | .blocked t => t.setWaiting (some d)
  | .failed t => (t.setWaiting none).setFault (some (.device d))

/-- The device operation of WD: DeviceFault when it fails (46_device_system.md R222). -/
def finishWrite (d v : Byte) (s : State) : State :=
  match devWrite d v s with
  | .done _ t => t
  | .blocked t => t
  | .failed t => t.setFault (some (.device d))

/-- The device operation of TD: SW <- -1 when available, else 0; DeviceFault when it fails (46_device_system.md
R223). -/
def finishTest (d : Byte) (s : State) : State :=
  match devTest d s with
  | .done true t => t.write .sw (-1)
  | .done false t => t.write .sw 0
  | .blocked t => t
  | .failed t => t.setFault (some (.device d))

/-- RD m (R221). -/
def execRd (m : Operand) (s : State) : StepResult :=
  onOk (operandByte s m) s fun d => .next (finishRead d s)

/-- WD m: the low byte of A to the device (R222). -/
def execWd (m : Operand) (s : State) : StepResult :=
  onOk (operandByte s m) s fun d => .next (finishWrite d (lowByte (s.get .a)) s)

/-- TD m (R223). -/
def execTd (m : Operand) (s : State) : StepResult :=
  onOk (operandByte s m) s fun d => .next (finishTest d s)

/-- The rest of a step that waits on a device's read (60_exceptions.md R249): the read is asked for again. -/
def resumeRead (d : Byte) (s : State) : StepResult := .next (finishRead d s)

/-- LPS (R224). -/
def execLps (s : State) : StepResult := unimplemented "LPS" s

/-- STI (R225). -/
def execSti (s : State) : StepResult := unimplemented "STI" s

/-- SSK (R226). -/
def execSsk (s : State) : StepResult := unimplemented "SSK" s

end Sys2Proof.Machine
end

