-- ==== Sys2Proof/Machine/Jump.lean ====
section
/-! DEFINITION. Control transfer (45_jump.md). The target is resolved whether or not the jump is taken; no range check is
made at the jump (R210). -/

namespace Sys2Proof.Machine

/-- `if c: pc <- U`, U resolved first (R210). -/
def jumpIf (c : Bool) (m : Operand) (s : State) : StepResult :=
  onOk (resolve s m) s fun u => .next (if c then s.write .pc u else s)

/-- J m (R211). -/
def execJ (m : Operand) (s : State) : StepResult := jumpIf true m s

/-- JEQ m (R212). -/
def execJeq (m : Operand) (s : State) : StepResult := jumpIf s.isEqual m s

/-- JGT m (R213). -/
def execJgt (m : Operand) (s : State) : StepResult := jumpIf s.isGreater m s

/-- JLT m (R214). -/
def execJlt (m : Operand) (s : State) : StepResult := jumpIf s.isLess m s

/-- JSUB m: `L <- pc; pc <- U`, U resolved before L is written (R215). -/
def execJsub (m : Operand) (s : State) : StepResult :=
  onOk (resolve s m) s fun u => .next ((s.set .l (s.get .pc)).write .pc u)

/-- RSUB: `pc <- L`; nothing is resolved, the operand is ignored (R216). -/
def execRsub (s : State) : StepResult := .next (s.set .pc (s.get .l))

end Sys2Proof.Machine
end

