-- ==== Sys2Proof/Machine/LoadStore.lean ====
section
/-! DEFINITION. The load and store instructions (43_load_store.md). None of them writes SW (R160). -/

namespace Sys2Proof.Machine

/-- `r <- OperandWord(U)`. -/
def loadWord (r : Reg) (m : Operand) (s : State) : StepResult :=
  onOk (operandWord s m) s fun v => .next (s.write r v)

/-- The bytes stored at the address U; nothing is stored when the range check fails. -/
def storeBytes (bs : List Byte) (m : Operand) (s : State) : StepResult :=
  onOk (resolve s m) s fun u => onOk (memWrite s u bs) s .next

/-- `MemWrite(U, 3, trunc24(r))`. -/
def storeWord (r : Reg) (m : Operand) (s : State) : StepResult := storeBytes (bytesOfWord (s.get r)) m s

/-- LDA m (R161). -/
def execLda (m : Operand) (s : State) : StepResult := loadWord .a m s

/-- LDX m (R162). -/
def execLdx (m : Operand) (s : State) : StepResult := loadWord .x m s

/-- LDL m (R163). -/
def execLdl (m : Operand) (s : State) : StepResult := loadWord .l m s

/-- LDB m (R164). -/
def execLdb (m : Operand) (s : State) : StepResult := loadWord .b m s

/-- LDS m (R165). -/
def execLds (m : Operand) (s : State) : StepResult := loadWord .s m s

/-- LDT m (R166). -/
def execLdt (m : Operand) (s : State) : StepResult := loadWord .t m s

/-- LDCH m: the low byte of A replaced by `OperandByte(U)` (R167). -/
def execLdch (m : Operand) (s : State) : StepResult :=
  onOk (operandByte s m) s fun v => .next (s.set .a (withLowByte (s.get .a) v))

/-- LDF m: unimplemented when immediate, before any address is resolved; else F <- the six bytes at U (R168). -/
def execLdf (m : Operand) (s : State) : StepResult :=
  if isImmediate m then unimplemented "LDF" s
  else onOk (resolve s m) s fun u => onOk (memRead6 s u) s fun f => .next (s.setF f)

/-- STA m (R169). -/
def execSta (m : Operand) (s : State) : StepResult := storeWord .a m s

/-- STX m (R170). -/
def execStx (m : Operand) (s : State) : StepResult := storeWord .x m s

/-- STL m (R171). -/
def execStl (m : Operand) (s : State) : StepResult := storeWord .l m s

/-- STB m (R172). -/
def execStb (m : Operand) (s : State) : StepResult := storeWord .b m s

/-- STS m (R173). -/
def execSts (m : Operand) (s : State) : StepResult := storeWord .s m s

/-- STT m (R174). -/
def execStt (m : Operand) (s : State) : StepResult := storeWord .t m s

/-- STSW m (R175). -/
def execStsw (m : Operand) (s : State) : StepResult := storeWord .sw m s

/-- STCH m: the low byte of A stored at U (R176). -/
def execStch (m : Operand) (s : State) : StepResult := storeBytes [lowByte (s.get .a)] m s

/-- STF m: the six bytes of F stored from U on (R177). -/
def execStf (m : Operand) (s : State) : StepResult := storeBytes s.regF.toList m s

end Sys2Proof.Machine
end

