-- ==== Sys2Proof/WellFormed.lean ====
section
/-! DEFINITION. Well-formed instructions: those an encoding exists for. Register fields and raw operands carry their
widths in their types; what is left to check is that Format 3 and Format 4 are selected only when (n,i) is not (0,0)
(30_encoding.md R73, R74), since n = i = 0 selects the SIC-compatible layout whatever the other bits are (R76). -/

namespace Sys2Proof

/-- (n,i) is not (0,0). -/
def Flags.selectsF3F4 (fl : Flags) : Bool := fl.n || fl.i

/-- The layout of the operand agrees with its flags (R73, R74, R76). -/
def Operand.wellFormed : Operand → Bool
  | .sic _ _ => true
  | .f3 fl _ => fl.selectsF3F4
  | .f4 fl _ => fl.selectsF3F4

/-- An instruction is well formed when its operand is; Format-1 and Format-2 instructions always are (R71, R72). -/
def Instr.wellFormed : Instr → Bool
  | .lda m => m.wellFormed
  | .ldx m => m.wellFormed
  | .ldl m => m.wellFormed
  | .sta m => m.wellFormed
  | .stx m => m.wellFormed
  | .stl m => m.wellFormed
  | .add m => m.wellFormed
  | .sub m => m.wellFormed
  | .mul m => m.wellFormed
  | .div m => m.wellFormed
  | .comp m => m.wellFormed
  | .tix m => m.wellFormed
  | .jeq m => m.wellFormed
  | .jgt m => m.wellFormed
  | .jlt m => m.wellFormed
  | .j m => m.wellFormed
  | .and m => m.wellFormed
  | .or m => m.wellFormed
  | .jsub m => m.wellFormed
  | .rsub m => m.wellFormed
  | .ldch m => m.wellFormed
  | .stch m => m.wellFormed
  | .addf m => m.wellFormed
  | .subf m => m.wellFormed
  | .mulf m => m.wellFormed
  | .divf m => m.wellFormed
  | .ldb m => m.wellFormed
  | .lds m => m.wellFormed
  | .ldf m => m.wellFormed
  | .ldt m => m.wellFormed
  | .stb m => m.wellFormed
  | .sts m => m.wellFormed
  | .stf m => m.wellFormed
  | .stt m => m.wellFormed
  | .compf m => m.wellFormed
  | .addr _ _ => true
  | .subr _ _ => true
  | .mulr _ _ => true
  | .divr _ _ => true
  | .compr _ _ => true
  | .shiftl _ _ => true
  | .shiftr _ _ => true
  | .rmo _ _ => true
  | .svc _ _ => true
  | .clear _ _ => true
  | .tixr _ _ => true
  | .float => true
  | .fix => true
  | .norm => true
  | .lps m => m.wellFormed
  | .sti m => m.wellFormed
  | .rd m => m.wellFormed
  | .wd m => m.wellFormed
  | .td m => m.wellFormed
  | .stsw m => m.wellFormed
  | .ssk m => m.wellFormed
  | .sio => true
  | .hio => true
  | .tio => true

end Sys2Proof
end

