-- ==== Sys2Proof/Decode.lean ====
section
/-! DEFINITION. The decoder (30_encoding.md R70 to R85) and, after it, the encoder (R88). -/

namespace Sys2Proof

/-- `v[hi:lo]`, the bit field of a byte as an unsigned integer (00_scope.md R9). -/
def bits (v : Byte) (hi lo : Nat) : Nat := v.toNat / 2 ^ lo % 2 ^ (hi + 1 - lo)

/-- `v[k]`, a single bit of a byte (R9). -/
def bitAt (v : Byte) (k : Nat) : Bool := v.toNat / 2 ^ k % 2 == 1

/-- What an opcode byte selects: the format family (R79) and the instruction, waiting for its operand fields. -/
inductive OpcodeRow where
  /-- Format 1, one byte (R71). -/
  | f1 (i : Instr)
  /-- Format 2, two bytes (R72). -/
  | f2 (mk : BitVec 4 → BitVec 4 → Instr)
  /-- The F3_F4 family, three or four bytes (R73, R74, R76). -/
  | f34 (mk : Operand → Instr)

/-- The 17 opcodes compared on all 8 bits: Format 1 and Format 2 (R78, R80). -/
def table8 : List (Nat × OpcodeRow) :=
  [(0x90, .f2 .addr),
   (0x94, .f2 .subr),
   (0x98, .f2 .mulr),
   (0x9C, .f2 .divr),
   (0xA0, .f2 .compr),
   (0xA4, .f2 .shiftl),
   (0xA8, .f2 .shiftr),
   (0xAC, .f2 .rmo),
   (0xB0, .f2 .svc),
   (0xB4, .f2 .clear),
   (0xB8, .f2 .tixr),
   (0xC0, .f1 .float),
   (0xC4, .f1 .fix),
   (0xC8, .f1 .norm),
   (0xF0, .f1 .sio),
   (0xF4, .f1 .hio),
   (0xF8, .f1 .tio)]

/-- The 42 opcodes compared on the top 6 bits: the F3_F4 family (R78, R80). -/
def table6 : List (Nat × OpcodeRow) :=
  [(0x00, .f34 .lda),
   (0x04, .f34 .ldx),
   (0x08, .f34 .ldl),
   (0x0C, .f34 .sta),
   (0x10, .f34 .stx),
   (0x14, .f34 .stl),
   (0x18, .f34 .add),
   (0x1C, .f34 .sub),
   (0x20, .f34 .mul),
   (0x24, .f34 .div),
   (0x28, .f34 .comp),
   (0x2C, .f34 .tix),
   (0x30, .f34 .jeq),
   (0x34, .f34 .jgt),
   (0x38, .f34 .jlt),
   (0x3C, .f34 .j),
   (0x40, .f34 .and),
   (0x44, .f34 .or),
   (0x48, .f34 .jsub),
   (0x4C, .f34 .rsub),
   (0x50, .f34 .ldch),
   (0x54, .f34 .stch),
   (0x58, .f34 .addf),
   (0x5C, .f34 .subf),
   (0x60, .f34 .mulf),
   (0x64, .f34 .divf),
   (0x68, .f34 .ldb),
   (0x6C, .f34 .lds),
   (0x70, .f34 .ldf),
   (0x74, .f34 .ldt),
   (0x78, .f34 .stb),
   (0x7C, .f34 .sts),
   (0x80, .f34 .stf),
   (0x84, .f34 .stt),
   (0x88, .f34 .compf),
   (0xD0, .f34 .lps),
   (0xD4, .f34 .sti),
   (0xD8, .f34 .rd),
   (0xDC, .f34 .wd),
   (0xE0, .f34 .td),
   (0xE8, .f34 .stsw),
   (0xEC, .f34 .ssk)]

/-- `classify(b1)`: all 8 bits against the Format-1 and Format-2 opcodes, then `b1 & 0xFC` against the F3_F4 opcodes,
else nothing (R78, R81, R82). -/
def classify (b1 : Byte) : Option OpcodeRow :=
  match table8.lookup b1.toNat with
  | some row => some row
  | none => table6.lookup (bits b1 7 2 * 4)

/-- The layout is SIC-compatible: n = i = 0 (R76, R77). -/
def isSic (b1 : Byte) : Bool := bits b1 1 0 == 0

/-- A fourth byte belongs to the instruction: not SIC-compatible and e = 1 (R77). -/
def hasFourth (b1 b2 : Byte) : Bool := !isSic b1 && bitAt b2 4

/-- `extract_flags(b1, b2)` without e (R75). -/
def extractFlags (b1 b2 : Byte) : Flags :=
  { n := bitAt b1 1, i := bitAt b1 0, x := bitAt b2 7, b := bitAt b2 6, p := bitAt b2 5 }

/-- The operand of a three-byte F3_F4 instruction: SIC-compatible `b2[6:0] : b3`, or Format 3 `b2[3:0] : b3` (R84). -/
def operand3 (b1 b2 b3 : Byte) : Operand :=
  if isSic b1 then .sic (bitAt b2 7) (BitVec.ofNat 15 (bits b2 6 0 * 256 + b3.toNat))
  else .f3 (extractFlags b1 b2) (BitVec.ofNat 12 (bits b2 3 0 * 256 + b3.toNat))

/-- The operand of a Format-4 instruction: `b2[3:0] : b3 : b4` (R84). -/
def operand4 (b1 b2 b3 b4 : Byte) : Operand :=
  .f4 (extractFlags b1 b2) (BitVec.ofNat 20 (bits b2 3 0 * 65536 + b3.toNat * 256 + b4.toNat))

/-- Format 2: `r1 = b2[7:4]` (R85). -/
def fieldR1 (b2 : Byte) : BitVec 4 := BitVec.ofNat 4 (bits b2 7 4)

/-- Format 2: `r2 = b2[3:0]` (R85). -/
def fieldR2 (b2 : Byte) : BitVec 4 := BitVec.ofNat 4 (bits b2 3 0)

/-- Why a sequence of bytes is no instruction. -/
inductive DecodeError where
  /-- The first byte matches no opcode (R81, R82). -/
  | unknownOpcode (b1 : Byte)
  /-- The bytes end before the instruction does. -/
  | truncated
  deriving DecidableEq, Repr

/-- The decoder on a list of bytes, in fetch order: the instruction and the bytes after it (R77). -/
def decode : List Byte → Except DecodeError (Instr × List Byte)
  | [] => .error .truncated
  | b1 :: tail1 =>
    match classify b1 with
    | none => .error (.unknownOpcode b1)
    | some (.f1 i) => .ok (i, tail1)
    | some (.f2 mk) =>
      match tail1 with
      | [] => .error .truncated
      | b2 :: rest => .ok (mk (fieldR1 b2) (fieldR2 b2), rest)
    | some (.f34 mk) =>
      match tail1 with
      | b2 :: b3 :: tail3 =>
        if hasFourth b1 b2 then
          match tail3 with
          | [] => .error .truncated
          | b4 :: rest => .ok (mk (operand4 b1 b2 b3 b4), rest)
        else .ok (mk (operand3 b1 b2 b3), tail3)
      | _ => .error .truncated

/-- The bytes of an instruction whose bits, numbered as spec/opcode_table.json numbers them, are `w`: the first byte is
bits 7..0; four bytes, those at and above `nbits` zero. -/
def tableWordBytes (nbits w : Nat) : List Byte :=
  let v := w % 2 ^ nbits
  [BitVec.ofNat 8 v, BitVec.ofNat 8 (v / 256), BitVec.ofNat 8 (v / 65536), BitVec.ofNat 8 (v / 16777216)]

/-- The instruction the decoder reads from an instruction whose bits are `w` (none where it refuses). -/
def decodeTableWord (nbits w : Nat) : Option Instr :=
  match decode (tableWordBytes nbits w) with
  | .ok (i, _) => some i
  | .error _ => none

/-- The three format families (R70). -/
inductive Format where
  | f1 | f2 | f34
  deriving DecidableEq, Repr

/-- `format_of`: the family of an instruction's opcode, fixed per opcode (R79, R80). -/
def formatOf : Instr → Format
  | .lda _ => .f34
  | .ldx _ => .f34
  | .ldl _ => .f34
  | .sta _ => .f34
  | .stx _ => .f34
  | .stl _ => .f34
  | .add _ => .f34
  | .sub _ => .f34
  | .mul _ => .f34
  | .div _ => .f34
  | .comp _ => .f34
  | .tix _ => .f34
  | .jeq _ => .f34
  | .jgt _ => .f34
  | .jlt _ => .f34
  | .j _ => .f34
  | .and _ => .f34
  | .or _ => .f34
  | .jsub _ => .f34
  | .rsub _ => .f34
  | .ldch _ => .f34
  | .stch _ => .f34
  | .addf _ => .f34
  | .subf _ => .f34
  | .mulf _ => .f34
  | .divf _ => .f34
  | .ldb _ => .f34
  | .lds _ => .f34
  | .ldf _ => .f34
  | .ldt _ => .f34
  | .stb _ => .f34
  | .sts _ => .f34
  | .stf _ => .f34
  | .stt _ => .f34
  | .compf _ => .f34
  | .addr _ _ => .f2
  | .subr _ _ => .f2
  | .mulr _ _ => .f2
  | .divr _ _ => .f2
  | .compr _ _ => .f2
  | .shiftl _ _ => .f2
  | .shiftr _ _ => .f2
  | .rmo _ _ => .f2
  | .svc _ _ => .f2
  | .clear _ _ => .f2
  | .tixr _ _ => .f2
  | .float => .f1
  | .fix => .f1
  | .norm => .f1
  | .lps _ => .f34
  | .sti _ => .f34
  | .rd _ => .f34
  | .wd _ => .f34
  | .td _ => .f34
  | .stsw _ => .f34
  | .ssk _ => .f34
  | .sio => .f1
  | .hio => .f1
  | .tio => .f1

/-- The bytes of an F3_F4 instruction: 3, or 4 in Format 4 (R77). -/
def operandLength : Operand → Nat
  | .sic _ _ => 3
  | .f3 _ _ => 3
  | .f4 _ _ => 4

/-- The length of an instruction in bytes (R77). -/
def instrLength : Instr → Nat
  | .lda m => operandLength m
  | .ldx m => operandLength m
  | .ldl m => operandLength m
  | .sta m => operandLength m
  | .stx m => operandLength m
  | .stl m => operandLength m
  | .add m => operandLength m
  | .sub m => operandLength m
  | .mul m => operandLength m
  | .div m => operandLength m
  | .comp m => operandLength m
  | .tix m => operandLength m
  | .jeq m => operandLength m
  | .jgt m => operandLength m
  | .jlt m => operandLength m
  | .j m => operandLength m
  | .and m => operandLength m
  | .or m => operandLength m
  | .jsub m => operandLength m
  | .rsub m => operandLength m
  | .ldch m => operandLength m
  | .stch m => operandLength m
  | .addf m => operandLength m
  | .subf m => operandLength m
  | .mulf m => operandLength m
  | .divf m => operandLength m
  | .ldb m => operandLength m
  | .lds m => operandLength m
  | .ldf m => operandLength m
  | .ldt m => operandLength m
  | .stb m => operandLength m
  | .sts m => operandLength m
  | .stf m => operandLength m
  | .stt m => operandLength m
  | .compf m => operandLength m
  | .addr _ _ => 2
  | .subr _ _ => 2
  | .mulr _ _ => 2
  | .divr _ _ => 2
  | .compr _ _ => 2
  | .shiftl _ _ => 2
  | .shiftr _ _ => 2
  | .rmo _ _ => 2
  | .svc _ _ => 2
  | .clear _ _ => 2
  | .tixr _ _ => 2
  | .float => 1
  | .fix => 1
  | .norm => 1
  | .lps m => operandLength m
  | .sti m => operandLength m
  | .rd m => operandLength m
  | .wd m => operandLength m
  | .td m => operandLength m
  | .stsw m => operandLength m
  | .ssk m => operandLength m
  | .sio => 1
  | .hio => 1
  | .tio => 1

/-- A flag as a bit of the encoding. -/
def flagBit (b : Bool) : Nat := if b then 1 else 0

/-- Format 1: `b1 = opcode` (R71). -/
def encodeF1 (op : Nat) : List Byte := [BitVec.ofNat 8 op]

/-- Format 2: `b1 = opcode`, `b2 = (r1 << 4) | r2` (R88). -/
def encodeF2 (op : Nat) (r1 r2 : BitVec 4) : List Byte :=
  [BitVec.ofNat 8 op, BitVec.ofNat 8 (r1.toNat * 16 + r2.toNat)]

/-- `b1 = opcode | (n << 1) | i` (R88). -/
def encodeB1 (op : Nat) (fl : Flags) : Byte := BitVec.ofNat 8 (op + flagBit fl.n * 2 + flagBit fl.i)

/-- `b2 = (x << 7) | (b << 6) | (p << 5) | (e << 4) | top`, where top is the high nibble of the operand (R88). -/
def encodeB2 (fl : Flags) (e : Bool) (top : Nat) : Byte :=
  BitVec.ofNat 8 (flagBit fl.x * 128 + flagBit fl.b * 64 + flagBit fl.p * 32 + flagBit e * 16 + top)

/-- The F3_F4 family: SIC-compatible, Format 3 and Format 4 (R88). -/
def encodeF34 (op : Nat) : Operand → List Byte
  | .sic x addr => [BitVec.ofNat 8 op, BitVec.ofNat 8 (flagBit x * 128 + addr.toNat / 256), BitVec.ofNat 8 addr.toNat]
  | .f3 fl disp => [encodeB1 op fl, encodeB2 fl false (disp.toNat / 256), BitVec.ofNat 8 disp.toNat]
  | .f4 fl addr =>
    [encodeB1 op fl, encodeB2 fl true (addr.toNat / 65536), BitVec.ofNat 8 (addr.toNat / 256), BitVec.ofNat 8 addr.toNat]

/-- The encoder: the bytes of an instruction in fetch order (R80, R88). -/
def encode : Instr → List Byte
  | .lda m => encodeF34 0x00 m
  | .ldx m => encodeF34 0x04 m
  | .ldl m => encodeF34 0x08 m
  | .sta m => encodeF34 0x0C m
  | .stx m => encodeF34 0x10 m
  | .stl m => encodeF34 0x14 m
  | .add m => encodeF34 0x18 m
  | .sub m => encodeF34 0x1C m
  | .mul m => encodeF34 0x20 m
  | .div m => encodeF34 0x24 m
  | .comp m => encodeF34 0x28 m
  | .tix m => encodeF34 0x2C m
  | .jeq m => encodeF34 0x30 m
  | .jgt m => encodeF34 0x34 m
  | .jlt m => encodeF34 0x38 m
  | .j m => encodeF34 0x3C m
  | .and m => encodeF34 0x40 m
  | .or m => encodeF34 0x44 m
  | .jsub m => encodeF34 0x48 m
  | .rsub m => encodeF34 0x4C m
  | .ldch m => encodeF34 0x50 m
  | .stch m => encodeF34 0x54 m
  | .addf m => encodeF34 0x58 m
  | .subf m => encodeF34 0x5C m
  | .mulf m => encodeF34 0x60 m
  | .divf m => encodeF34 0x64 m
  | .ldb m => encodeF34 0x68 m
  | .lds m => encodeF34 0x6C m
  | .ldf m => encodeF34 0x70 m
  | .ldt m => encodeF34 0x74 m
  | .stb m => encodeF34 0x78 m
  | .sts m => encodeF34 0x7C m
  | .stf m => encodeF34 0x80 m
  | .stt m => encodeF34 0x84 m
  | .compf m => encodeF34 0x88 m
  | .addr r1 r2 => encodeF2 0x90 r1 r2
  | .subr r1 r2 => encodeF2 0x94 r1 r2
  | .mulr r1 r2 => encodeF2 0x98 r1 r2
  | .divr r1 r2 => encodeF2 0x9C r1 r2
  | .compr r1 r2 => encodeF2 0xA0 r1 r2
  | .shiftl r1 r2 => encodeF2 0xA4 r1 r2
  | .shiftr r1 r2 => encodeF2 0xA8 r1 r2
  | .rmo r1 r2 => encodeF2 0xAC r1 r2
  | .svc r1 r2 => encodeF2 0xB0 r1 r2
  | .clear r1 r2 => encodeF2 0xB4 r1 r2
  | .tixr r1 r2 => encodeF2 0xB8 r1 r2
  | .float => encodeF1 0xC0
  | .fix => encodeF1 0xC4
  | .norm => encodeF1 0xC8
  | .lps m => encodeF34 0xD0 m
  | .sti m => encodeF34 0xD4 m
  | .rd m => encodeF34 0xD8 m
  | .wd m => encodeF34 0xDC m
  | .td m => encodeF34 0xE0 m
  | .stsw m => encodeF34 0xE8 m
  | .ssk m => encodeF34 0xEC m
  | .sio => encodeF1 0xF0
  | .hio => encodeF1 0xF4
  | .tio => encodeF1 0xF8

end Sys2Proof
end

