-- ==== Sys2Proof/Machine/Fetch.lean ====
section
/-! DEFINITION. Fetching an instruction byte by byte (40_decode_and_address.md R100, R101, R105). -/

namespace Sys2Proof.Machine

/-- `Fetch()`: the byte at PC, read signed, and PC advanced by 1; PC is not advanced when the address is out of range
(R101). -/
def fetchByte (s : State) : Except Fault (Byte × State) :=
  match memRead1 s (s.read .pc) with
  | .ok v => .ok (v, s.write .pc (s.read .pc + 1))
  | .error k => .error k

/-- What the fetch of an instruction ends in. -/
inductive Fetched where
  /-- An instruction, PC past all its bytes. -/
  | instr (i : Instr) (s : State)
  /-- A fault, PC past the bytes fetched before it. -/
  | raised (k : Fault) (s : State)

/-- Fetch one more byte, or end with the fault it meets. -/
def fetchThen (s : State) (go : Byte → State → Fetched) : Fetched :=
  match fetchByte s with
  | .ok (v, t) => go v t
  | .error k => .raised k s

/-- Steps 1, 2, 4 and 5 of `Step()`: the bytes of an instruction, as many as its opcode and flags ask for, and the
instruction they encode; an unknown opcode is a Decode Failure after one byte (R100, R102, R105). -/
def fetchInstr (s : State) : Fetched :=
  fetchThen s fun b1 s1 =>
    match classify b1 with
    | none => .raised (.decodeFailure (.unknownOpcode b1)) s1
    | some (.f1 i) => .instr i s1
    | some (.f2 mk) => fetchThen s1 fun b2 s2 => .instr (mk (fieldR1 b2) (fieldR2 b2)) s2
    | some (.f34 mk) =>
      fetchThen s1 fun b2 s2 =>
        fetchThen s2 fun b3 s3 =>
          if hasFourth b1 b2 then fetchThen s3 fun b4 s4 => .instr (mk (operand4 b1 b2 b3 b4)) s4
          else .instr (mk (operand3 b1 b2 b3)) s3

end Sys2Proof.Machine
end

