-- ==== Sys2Proof/Machine/Step.lean ====
section
/-! DEFINITION. One invocation of the core (40_decode_and_address.md R100). -/

namespace Sys2Proof.Machine

/-- `Step()`: nothing changes while a fault is latched (10_state.md R30); a step that waits on a device goes on with its
read (60_exceptions.md R249); else one instruction is fetched, decoded and executed. -/
def step (s : State) : Host.Outcome State Fault Refusal :=
  match s.fault, s.waiting with
  | some _, _ => .next s
  | none, some d => resumeRead d s
  | none, none =>
    match fetchInstr s with
    | .raised k t => raise k t
    | .instr i t => exec i t

/-- The state with the instruction whose bits are `w` (numbered as spec/opcode_table.json numbers them; the bits from
`nbits` on are zero) stored at PC, where the next step fetches, and ready to fetch it. -/
def State.withFetchWord (s : State) (nbits w : Nat) : State := s.readyToFetch.placeAtPC (tableWordBytes nbits w)

end Sys2Proof.Machine
end

