-- ==== Sys2Proof/Machine/Clock.lean ====
section
/-! DEFINITION. The clock controller (60_exceptions.md R251, 70_reset_and_hazards.md R268, R271). -/

namespace Sys2Proof.Machine

/-- `clamp(speed_hz, 1, max_rate)` (R251). -/
def clampSpeed (hz : Nat) : Nat := if hz < 1 then 1 else if Config.maxRate < hz then Config.maxRate else hz

/-- The tick interval `max_rate / clamp(speed_hz, 1, max_rate)` in nanoseconds; the spec does not say how a quotient
that is not whole is rounded (R271; log entry 8). -/
def tickInterval (hz : Nat) : Nat :=
  if Config.maxRate % clampSpeed hz = 0 then Config.maxRate / clampSpeed hz
  else if Config.roundsIntervalUp hz then Config.maxRate / clampSpeed hz + 1
  else Config.maxRate / clampSpeed hz

/-- `start()`: running, with the interval of the speed of this moment; an active timer is replaced (R251). -/
def clockStart (s : State) : State := { s with run := .running (tickInterval s.speed) }

/-- `stop()`: the active timer is cancelled; an unfinished step stays as it is, and can still be finished (R251, R249). -/
def clockStop (s : State) : State := { s with run := .stopped }

/-- `set_speed(hz)`: clamped to 1 to max_rate; an active timer keeps its interval (R251, R268). -/
def clockSetSpeed (hz : Nat) (s : State) : State := { s with speed := clampSpeed hz }

/-- `is_running()` (R251). -/
def clockIsRunning (s : State) : Bool :=
  match s.run with
  | .stopped => false
  | .running _ => true

/-- One firing of the timer: exactly one `Step()` while running, none while stopped (R251). While a read is blocked the
spec's tick waits for the lock (20_memory.md R64); here it is an invocation that goes on with that read. DESIGN CHOICE, log
entry 24. -/
def tick (s : State) : StepResult :=
  match s.run with
  | .stopped => .next s
  | .running _ => step s

/-- `single_step`: one `Step()` asked for by the host, whether the clock runs or not (R251). Asked for while a read is
blocked, it must wait for the lock (R251, 20_memory.md R64), and the spec does not say more; here it is an invocation that
goes on with that read, and starts no new instruction. DESIGN CHOICE, log entry 24. -/
def singleStep (s : State) : StepResult := step s

end Sys2Proof.Machine
end

