-- ==== Sys2Proof/Machine/Loader.lean ====
section
/-! DEFINITION. Object records: the grammar the loader consumes (70_reset_and_hazards.md R264, R266). -/

namespace Sys2Proof.Machine

/-- An object record, one line of text (R266). -/
inductive ObjectRecord where
  /-- `T<addr><len><bytes>`: the bytes are written from addr on. -/
  | text (addr : Nat) (bytes : List Byte)
  /-- `E<addr>`: the entry address. -/
  | entry (addr : Nat)
  /-- An H or M record, not interpreted. -/
  | ignored
  deriving DecidableEq, Repr

/-- The value of a hexadecimal digit; capital and small letters alike (log entry 12). -/
def hexDigit (c : Char) : Option Nat :=
  let v := c.toNat
  if 48 ≤ v ∧ v ≤ 57 then some (v - 48)
  else if 65 ≤ v ∧ v ≤ 70 then some (v - 55)
  else if 97 ≤ v ∧ v ≤ 102 then some (v - 87)
  else none

/-- The number written by hexadecimal digits, the most significant first, on top of `acc`. -/
def hexNumber (acc : Nat) : List Char → Option Nat
  | [] => some acc
  | c :: rest =>
    match hexDigit c with
    | some v => hexNumber (acc * 16 + v) rest
    | none => none

/-- The bytes written by pairs of hexadecimal digits. -/
def hexBytes : List Char → Option (List Byte)
  | [] => some []
  | [_] => none
  | c :: d :: rest =>
    match hexNumber 0 [c, d], hexBytes rest with
    | some v, some bs => some (BitVec.ofNat 8 v :: bs)
    | _, _ => none

/-- A field of exactly `n` hexadecimal digits and the text after it. -/
def hexField (n : Nat) (cs : List Char) : Option (Nat × List Char) :=
  if cs.length < n then none
  else
    match hexNumber 0 (cs.take n) with
    | some v => some (v, cs.drop n)
    | none => none

/-- A T record after its letter: 6 digits of address, 2 of length, and exactly 2 digits for each byte (R266). -/
def parseText (cs : List Char) : Option ObjectRecord :=
  match hexField 6 cs with
  | none => none
  | some (addr, cs1) =>
    match hexField 2 cs1 with
    | none => none
    | some (len, cs2) =>
      match hexBytes cs2 with
      | none => none
      | some bs => if bs.length = len then some (.text addr bs) else none

/-- An E record after its letter: exactly 6 digits (R266). -/
def parseEntry (cs : List Char) : Option ObjectRecord :=
  match hexField 6 cs with
  | some (addr, []) => some (.entry addr)
  | _ => none

/-- A line of an object program; a malformed record is none (R266). -/
def parseRecord (line : List Char) : Option ObjectRecord :=
  match line with
  | 'T' :: cs => parseText cs
  | 'E' :: cs => parseEntry cs
  | 'H' :: _ => some .ignored
  | 'M' :: _ => some .ignored
  | _ => none

/-- The host's byte writes of a T record, in address order, each under the range rule (R266, 20_memory.md R53): the
first byte whose address does not exist ends them, with that address; the bytes before it are written. -/
def loadBytes (s : State) (a : Int) : List Byte → State × Option Int
  | [] => (s, none)
  | v :: rest =>
    match memWrite s a [v] with
    | .ok t => loadBytes t (a + 1) rest
    | .error _ => (s, some a)

/-- What a record does, and the address at which it ended with a fatal error, if it did: a T record is byte writes, an E
record sets PC (R264, R266). -/
def applyRecord (r : ObjectRecord) (s : State) : State × Option Int :=
  match r with
  | .text addr bs => loadBytes s (addr : Int) bs
  | .entry addr => (s.write .pc (addr : Int), none)
  | .ignored => (s, none)

end Sys2Proof.Machine
end

