-- ==== Sys2Proof/Machine/HostAccess.lean ====
section
/-! DEFINITION. What the host can do to the machine between steps (10_state.md R34, 20_memory.md R65,
60_exceptions.md R244, R250, R251, 70_reset_and_hazards.md R260, R263 to R266). -/

namespace Sys2Proof.Machine

/-- An action of the host. -/
inductive HostAction where
  /-- Reset (R260). -/
  | reset
  /-- `set(name, value)` of an integer register slot (R34). -/
  | setReg (r : Reg) (v : Int)
  /-- The six bytes of F (R26, R34). -/
  | setFloatReg (f : FReg)
  /-- A byte write (R34, R65). -/
  | writeByte (addr : Int) (v : Byte)
  /-- A word write (R34, R65). -/
  | writeWord (addr : Int) (w : Word)
  /-- A float write (R34, R65). -/
  | writeFloat (addr : Int) (f : FReg)
  /-- `set(index, Device)`: a device slot is replaced (R250). -/
  | replaceDevice (d : Byte) (dev : Device)
  /-- A line of an object program (R266). -/
  | loadLine (line : List Char)
  /-- `start()` (R251). -/
  | start
  /-- `stop()` (R251). -/
  | stop
  /-- `set_speed(hz)` (R251). -/
  | setSpeed (hz : Nat)
  deriving DecidableEq, Repr

/-- Why an action of the host has no effect, or not its whole effect. -/
inductive HostError where
  /-- A step waits on a device and holds the machine (20_memory.md R64, 60_exceptions.md R249). -/
  | busy
  /-- The address is out of range, a fatal error for the host as well (10_state.md R34). -/
  | addressRange (addr : Int)
  /-- The object record is malformed (70_reset_and_hazards.md R266). -/
  | malformedRecord
  deriving DecidableEq, Repr

/-- What an action of the host leaves: the state, and the error it ended with, if it did. -/
structure HostResult where
  state : State
  error : Option HostError
  deriving DecidableEq, Repr

/-- An action that is done. -/
def hostDone (s : State) : HostResult := { state := s, error := none }

/-- An action turned away: nothing changes. -/
def hostRefused (e : HostError) (s : State) : HostResult := { state := s, error := some e }

/-- An access of the host that the range rule may end. -/
def hostAccess {α : Type} (addr : Int) (r : Except Fault α) : Except HostError α :=
  match r with
  | .ok v => .ok v
  | .error _ => .error (.addressRange addr)

/-- Reset by the host: the construction state; the environment's answers are no part of the machine and stay (70_reset_and_hazards.md
R260, R261; log entry 2). -/
def hostReset (s : State) : State :=
  { State.reset with
    readAnswers := s.readAnswers, writeAnswers := s.writeAnswers, testAnswers := s.testAnswers, envTime := s.envTime }

/-- A store of the host: one byte, word or float; nothing of it is stored when it is out of range (20_memory.md R53,
R65). -/
def hostStore (addr : Int) (bs : List Byte) (s : State) : HostResult :=
  match memWrite s addr bs with
  | .ok t => hostDone t
  | .error _ => hostRefused (.addressRange addr) s

/-- A line of an object program applied; a malformed record is refused (R266). -/
def loadLine (line : List Char) (s : State) : HostResult :=
  match parseRecord line with
  | none => hostRefused .malformedRecord s
  | some r => { state := (applyRecord r s).1, error := (applyRecord r s).2.map HostError.addressRange }

/-- An action of the host on the machine or its clock, between steps. -/
def machineAction (act : HostAction) (s : State) : HostResult :=
  match act with
  | .reset => hostDone (hostReset s)
  | .setReg r v => hostDone (s.write r v)
  | .setFloatReg f => hostDone (s.setF f)
  | .writeByte addr v => hostStore addr [v] s
  | .writeWord addr w => hostStore addr (bytesOfWord w) s
  | .writeFloat addr f => hostStore addr f.toList s
  | .replaceDevice d dev => hostDone (s.setDevice d dev)
  | .loadLine line => loadLine line s
  | .start => hostDone (clockStart s)
  | .stop => hostDone (clockStop s)
  | .setSpeed hz => hostDone (clockSetSpeed hz s)

/-- The action can be made while a step is blocked: `stop()` alone, which the spec says does not interrupt a blocked read
(60_exceptions.md R249). -/
def HostAction.passesBlockedStep : HostAction → Bool
  | .stop => true
  | .reset | .setReg _ _ | .setFloatReg _ | .writeByte _ _ | .writeWord _ _ | .writeFloat _ _ | .replaceDevice _ _
  | .loadLine _ | .start | .setSpeed _ => false

/-- The host acts: while a step is blocked it cannot, but for `stop()` (20_memory.md R64, 60_exceptions.md R249; log entry
11). -/
def hostAct (act : HostAction) (s : State) : HostResult :=
  if s.waiting.isSome && !act.passesBlockedStep then hostRefused .busy s else machineAction act s

/-- A value the host reads: nothing while a step is unfinished (20_memory.md R58, R64). -/
def hostRead {α : Type} (s : State) (r : Except HostError α) : Except HostError α :=
  if s.waiting.isSome then .error .busy else r

/-- `get(name)` of an integer register slot (10_state.md R34). -/
def hostReadReg (r : Reg) (s : State) : Except HostError Int := hostRead s (.ok (s.read r))

/-- The six bytes of F (10_state.md R26, R34). -/
def hostReadFloatReg (s : State) : Except HostError FReg := hostRead s (.ok s.regF)

/-- A byte of memory (20_memory.md R65). -/
def hostReadByte (addr : Int) (s : State) : Except HostError Byte := hostRead s (hostAccess addr (memRead1 s addr))

/-- A word of memory (20_memory.md R65). -/
def hostReadWord (addr : Int) (s : State) : Except HostError Word := hostRead s (hostAccess addr (memRead3 s addr))

/-- Six bytes of memory (20_memory.md R65). -/
def hostReadFloat (addr : Int) (s : State) : Except HostError FReg := hostRead s (hostAccess addr (memRead6 s addr))

/-- A digit of a file name: uppercase hexadecimal (60_exceptions.md R248). -/
def upperHexDigit (v : Nat) : Char := Char.ofNat (if v < 10 then 48 + v else 55 + v)

/-- The name of the backing file of a slot's file device: its index in two uppercase hexadecimal digits and the fixed
extension (60_exceptions.md R248). -/
def deviceFileName (d : Byte) : String :=
  String.ofList [upperHexDigit (d.toNat / 16), upperHexDigit (d.toNat % 16)] ++ Config.deviceFileExt

end Sys2Proof.Machine
end

