-- ==== Sys2Proof/Safety.lean ====
section
/-! DEFINITION. The terms claims are stated in: which states are well formed, which faults can be latched, when a run is
finished, and what an instruction leaves unchanged. -/

namespace Sys2Proof.Machine

/-- What holds of the machine at reset and after every step and every action of the host: memory and the device table
in canonical form (20_memory.md R50, 60_exceptions.md R245), SPEED in its range (10_state.md R31), an active timer's
interval at least 1 ns (70_reset_and_hazards.md R271), and no step unfinished once a fault is latched (10_state.md
R30). -/
structure State.Inv (s : State) : Prop where
  mem_wf : s.mem.wf = true
  devices_wf : DeviceTable.wf s.devices = true
  speed_pos : 1 ≤ s.speed
  speed_le : s.speed ≤ Config.maxRate
  interval_pos : ∀ n, s.run = .running n → 1 ≤ n
  fault_ends_step : s.fault ≠ none → s.waiting = none

/-- The faults a step can latch, with the information they can record (60_exceptions.md R230 to R237): an opcode byte
that classifies to nothing; flags of Format 3, not immediate, with b = p; an unimplemented form's mnemonic; an address no
access of 1, 3 or 6 bytes is legal at; a register index that names nothing; never InternalDispatchError. -/
def Fault.possible : Fault → Bool
  | .decodeFailure (.unknownOpcode b1) => (classify b1).isNone
  | .decodeFailure (.invalidAddressing fl) => fl.n && fl.b == fl.p
  | .unimplemented mn =>
    ["FLOAT", "FIX", "NORM", "SIO", "HIO", "TIO", "SVC", "ADDF", "SUBF", "MULF", "DIVF", "COMPF", "LPS", "STI", "SSK",
      "LDF", "ADDR", "SUBR", "MULR", "DIVR", "COMPR", "SHIFTL", "SHIFTR", "RMO", "CLEAR", "TIXR"].contains mn
  | .arithmetic => true
  | .device _ => true
  | .addressRange a => !inRange a 6
  | .registerIndex k => k == 7 || decide (10 ≤ k.toNat)
  | .internalDispatch _ => false

/-- What a Format-2 instruction that writes index 8 jumps to: the written value truncated to 24 bits (42_format2.md R140), as
PC then reads; nothing when it raises a fault. -/
def writtenToPC (i : Instr) (s : State) : Option Int :=
  match exec i s with
  | .next t => if t.fault.isNone then some (t.read .pc) else none
  | .fault _ | .refused _ => none

/-- The target of the jump an instruction makes in a state, PC being past it: U for J, for JEQ, JGT, JLT when their
condition holds, and for JSUB (45_jump.md R210); L for RSUB (R216); the written value for a Format-2 instruction whose
destination is index 8 (42_format2.md R140). A JSUB counts once L holds its return address; before that it changes L.
That the conditional jumps, RSUB and such a JSUB count as R269's jump is a DESIGN CHOICE, log entry 20. -/
def takenJumpTarget (i : Instr) (s : State) : Option Int :=
  let target (taken : Bool) (m : Operand) : Option Int :=
    match taken, resolve s m with
    | true, .ok u => some u
    | _, _ => none
  match i with
  | .j m => target true m
  | .jeq m => target s.isEqual m
  | .jgt m => target s.isGreater m
  | .jlt m => target s.isLess m
  | .jsub m => target (s.get .l == s.get .pc) m
  | .rsub _ => some (s.read .l)
  | .addr _ k | .subr _ k | .mulr _ k | .divr _ k | .rmo _ k | .shiftl k _ | .shiftr k _ | .clear k _ =>
    if k = 8 then writtenToPC i s else none
  | _ => none

/-- The machine spins: the instruction at PC is a jump, taken, to its own address (70_reset_and_hazards.md R269). The spec
leaves open whether the target meant of a resolved jump is U or what PC holds of it; here it is U, the exact integer, so a
jump whose U differs from its address by a multiple of 2^24 is no spin, although PC ends where it was. DESIGN CHOICE, log
entry 20. -/
def State.spins (s : State) : Bool :=
  match s.fault, s.waiting, fetchInstr s with
  | none, none, .instr i t => takenJumpTarget i t == some (s.read .pc)
  | _, _, _ => false

/-- The run is finished: it spins, or a fault is latched (70_reset_and_hazards.md R269; what counts as a spin is log entry
20). -/
def State.finished (s : State) : Bool := s.spins || s.fault.isSome

/-- Everything but the registers and memory is as before: the devices, the latch, the unfinished step, the clock and the
environment. -/
def SameRest (s t : State) : Prop :=
  t.devices = s.devices ∧ t.fault = s.fault ∧ t.waiting = s.waiting ∧ t.run = s.run ∧ t.speed = s.speed ∧
    t.readAnswers = s.readAnswers ∧ t.writeAnswers = s.writeAnswers ∧ t.testAnswers = s.testAnswers ∧
    t.envTime = s.envTime

/-- The integer registers outside a list are as before. -/
def SameRegsExcept (rs : List Reg) (s t : State) : Prop := ∀ r, r ∉ rs → t.get r = s.get r

/-- Every byte of memory is as before. -/
def SameMemory (s t : State) : Prop := ∀ a, t.byteAt a = s.byteAt a

/-- Every byte of memory outside the n bytes from a on is as before. -/
def SameMemoryOutside (a : Int) (n : Nat) (s t : State) : Prop :=
  ∀ j : Nat, ((j : Int) < a ∨ a + (n : Int) ≤ (j : Int)) → t.byteAt j = s.byteAt j

/-- The instruction completes and writes only registers of a list, whose values the condition `post` gives; F, memory and
everything else stay. -/
def WritesRegs (i : Instr) (s : State) (rs : List Reg) (post : State → Prop) : Prop :=
  ∃ t, exec i s = .next t ∧ post t ∧ SameRegsExcept rs s t ∧ t.regF = s.regF ∧ SameMemory s t ∧ SameRest s t

/-- The instruction completes and writes one register, with this value; F, memory and everything else stay. -/
def WritesReg (i : Instr) (s : State) (r : Reg) (w : Word) : Prop := WritesRegs i s [r] fun t => t.get r = w

/-- The instruction completes and stores exactly these bytes from an address on; registers, F and everything else
stay. -/
def StoresBytes (i : Instr) (s : State) (a : Nat) (bs : List Byte) : Prop :=
  ∃ t, exec i s = .next t ∧ (∀ k (h : k < bs.length), t.byteAt (a + k) = bs[k]) ∧
    SameMemoryOutside (a : Int) bs.length s t ∧ SameRegsExcept [] s t ∧ t.regF = s.regF ∧ SameRest s t

/-- The instruction takes a fault: the latch holds it, and every register (PC as fetching left it), F, memory and
everything else stay (60_exceptions.md R239). -/
def Traps (i : Instr) (s : State) (k : Fault) : Prop :=
  ∃ t, exec i s = .next t ∧ t.fault = some k ∧ SameRegsExcept [] s t ∧ t.regF = s.regF ∧ SameMemory s t ∧
    t.devices = s.devices ∧ t.waiting = s.waiting ∧ t.run = s.run ∧ t.speed = s.speed ∧
    t.readAnswers = s.readAnswers ∧ t.writeAnswers = s.writeAnswers ∧ t.testAnswers = s.testAnswers ∧
    t.envTime = s.envTime

/-- The index of a register slot (10_state.md R20). -/
def regIndex : Reg → BitVec 4
  | .a => 0
  | .x => 1
  | .l => 2
  | .b => 3
  | .s => 4
  | .t => 5
  | .pc => 8
  | .sw => 9

/-- The slot a register index names, if it names one (10_state.md R20, R22). -/
def slotOf (k : BitVec 4) : Option Reg :=
  match k.toNat with
  | 0 => some .a
  | 1 => some .x
  | 2 => some .l
  | 3 => some .b
  | 4 => some .s
  | 5 => some .t
  | 8 => some .pc
  | 9 => some .sw
  | _ => none

/-- The fault of a register field that names no slot (42_format2.md R141). -/
def indexFault (mnemonic : String) (k : BitVec 4) : Fault := if k = 6 then .unimplemented mnemonic else .registerIndex k

/-- The integer slots an instruction can write, PC's advance by fetching left out (10_state.md R23). -/
def writeSet : Instr → List Reg
  | .lda _ | .ldch _ | .add _ | .sub _ | .mul _ | .div _ | .and _ | .or _ | .rd _ => [.a]
  | .ldx _ => [.x]
  | .ldl _ => [.l]
  | .ldb _ => [.b]
  | .lds _ => [.s]
  | .ldt _ => [.t]
  | .comp _ | .compr _ _ | .td _ => [.sw]
  | .tix _ | .tixr _ _ => [.x, .sw]
  | .j _ | .jeq _ | .jgt _ | .jlt _ | .rsub _ => [.pc]
  | .jsub _ => [.l, .pc]
  | .addr _ r2 | .subr _ r2 | .mulr _ r2 | .divr _ r2 | .rmo _ r2 => (slotOf r2).toList
  | .shiftl r1 _ | .shiftr r1 _ | .clear r1 _ => (slotOf r1).toList
  | .sta _ | .stx _ | .stl _ | .stb _ | .sts _ | .stt _ | .stsw _ | .stch _ | .stf _ | .ldf _ | .wd _ => []
  | .addf _ | .subf _ | .mulf _ | .divf _ | .compf _ | .lps _ | .sti _ | .ssk _ | .svc _ _ => []
  | .float | .fix | .norm | .sio | .hio | .tio => []

/-- The instructions that store to memory (20_memory.md R55). -/
def storesToMemory : Instr → Bool
  | .sta _ | .stx _ | .stl _ | .stb _ | .sts _ | .stt _ | .stsw _ | .stch _ | .stf _ => true
  | _ => false

/-- The instructions that reach the device table (60_exceptions.md R245). -/
def reachesDevices : Instr → Bool
  | .rd _ | .wd _ | .td _ => true
  | _ => false

/-- X when a flag asks for indexing, else 0 (40_decode_and_address.md R114). -/
def indexPart (s : State) (x : Bool) : Int := if x then s.read .x else 0

/-- An effective address through a pointer: the unsigned big-endian word at `ta`, then the index; or the fault of a
pointer that does not lie wholly in memory (40_decode_and_address.md R114, 20_memory.md R53). -/
def throughPointer (s : State) (ta : Int) (x : Bool) : Except Fault Int :=
  if 0 ≤ ta ∧ ta + 2 ≤ 0xFFFFF then
    .ok (((s.byteAt ta.toNat).toNat * 65536 + (s.byteAt (ta.toNat + 1)).toNat * 256 +
      (s.byteAt (ta.toNat + 2)).toNat : Nat) + indexPart s x)
  else .error (.addressRange ta)

/-- The condition code of a comparison, as the 24 bits SW holds (10_state.md R27). -/
def ccBits (a b : Int) : Word := if a < b then 0xFFFFFF else if a = b then 0 else 1

/-- The bytes of memory from an address on. -/
def State.bytesFrom (s : State) (a n : Nat) : List Byte := (List.range n).map fun k => s.byteAt (a + k)

/-- A number written with `n` uppercase hexadecimal digits, the most significant first. -/
def hexText : Nat → Nat → List Char
  | 0, _ => []
  | n + 1, v => hexText n (v / 16) ++ [upperHexDigit (v % 16)]

/-- A T record with these bytes (70_reset_and_hazards.md R266). -/
def textLine (addr : Nat) (bs : List Byte) : List Char :=
  'T' :: (hexText 6 addr ++ hexText 2 bs.length ++ bs.flatMap fun v => hexText 2 v.toNat)

/-- A line that the grammar of object records admits (70_reset_and_hazards.md R266): T with 6 digits of address, 2 of
length and 2 for each byte of that length; E with 6 digits; H and M with anything. -/
def wellFormedRecord : List Char → Bool
  | 'T' :: cs =>
    decide (8 ≤ cs.length) && cs.all (fun c => (hexDigit c).isSome) && cs.length % 2 == 0 &&
      hexNumber 0 ((cs.drop 6).take 2) == some ((cs.length - 8) / 2)
  | 'E' :: cs => cs.length == 6 && cs.all fun c => (hexDigit c).isSome
  | 'H' :: _ => true
  | 'M' :: _ => true
  | _ => false

/-- The state in which the instruction of a step acts or its fault is raised: past the bytes that this step fetches, which
are none when the step goes on with a blocked read (40_decode_and_address.md R100). -/
def State.afterFetch (s : State) : State :=
  match s.waiting with
  | some _ => s
  | none =>
    match fetchInstr s with
    | .instr _ t => t
    | .raised _ t => t

/-- The states a machine can be in: from reset, by steps, by actions of the host, and with any answers lined up by the
environment. -/
inductive Reachable : State → Prop where
  | reset : Reachable State.reset
  | step {s t : State} : Reachable s → step s = .next t → Reachable t
  | host {s : State} (act : HostAction) : Reachable s → Reachable (hostAct act s).state
  | environment {s : State} (rs : List ReadAnswer) (ws : List WriteAnswer) (ts : List TestAnswer) :
      Reachable s → Reachable { s with readAnswers := rs, writeAnswers := ws, testAnswers := ts }

end Sys2Proof.Machine
end

