-- ==== Sys2Proof/Certificates/Slice0/Obligations.lean ====
section
/-! DEFINITION. The statements for the provers. -/

open Sys2Proof Sys2Proof.Machine

/-! ### Encoding -/

/-- Decoding the encoding of a well-formed instruction gives the instruction back, with every operand at every value
(30_encoding.md R70 to R88). -/
def Obligations.DecodeEncodeRoundTrip : Prop :=
  ∀ (i : Instr) (rest : List Byte), i.wellFormed = true → decode (encode i ++ rest) = .ok (i, rest)

/-- What decodes is well formed and is exactly the encoding of what it decodes to: no bit is dropped, and no two
encodings stand for one instruction (R70 to R88). -/
def Obligations.DecodedBytesAreTheirEncoding : Prop :=
  ∀ (bs : List Byte) (i : Instr) (rest : List Byte), decode bs = .ok (i, rest) →
    i.wellFormed = true ∧ bs = encode i ++ rest

/-- The length of an instruction, by the row that the first byte selects: an opcode byte that classifies to nothing is
refused whatever follows it, and a step at it ends with a Decode Failure after that one byte; Format 1 takes 1 byte; Format
2 takes 2; the F3_F4 family takes 3 when b1[1:0] = 00 or b2[4] = 0, and else 4. In each case what is decoded is of that
family and length, and the bytes after it are left alone (30_encoding.md R77). -/
def Obligations.LengthFollowsFirstTwoBytes : Prop :=
  (∀ b1 : Byte, match classify b1 with
    | none => ∀ rest, decode (b1 :: rest) = .error (.unknownOpcode b1)
    | some (.f1 i) => formatOf i = .f1 ∧ instrLength i = 1 ∧ ∀ rest, decode (b1 :: rest) = .ok (i, rest)
    | some (.f2 mk) => decode [b1] = .error .truncated ∧
        ∀ b2, ∃ r1 r2, formatOf (mk r1 r2) = .f2 ∧ instrLength (mk r1 r2) = 2 ∧
          ∀ rest, decode (b1 :: b2 :: rest) = .ok (mk r1 r2, rest)
    | some (.f34 mk) => decode [b1] = .error .truncated ∧ ∀ b2, decode [b1, b2] = .error .truncated ∧
        ∀ b3, if b1.toNat % 4 = 0 ∨ b2.toNat / 16 % 2 = 0 then
            ∃ m, formatOf (mk m) = .f34 ∧ instrLength (mk m) = 3 ∧
              ∀ rest, decode (b1 :: b2 :: b3 :: rest) = .ok (mk m, rest)
          else decode [b1, b2, b3] = .error .truncated ∧
            ∀ b4, ∃ m, formatOf (mk m) = .f34 ∧ instrLength (mk m) = 4 ∧
              ∀ rest, decode (b1 :: b2 :: b3 :: b4 :: rest) = .ok (mk m, rest)) ∧
  (∀ s : State, s.fault = none → s.waiting = none → (s.get .pc).toNat ≤ 0xFFFFF →
    (classify (s.byteAt (s.get .pc).toNat)).isNone = true →
    ∃ t, step s = .next t ∧ (t.get .pc).toNat = (s.get .pc).toNat + 1 ∧
      t.fault = some (.decodeFailure (.unknownOpcode (s.byteAt (s.get .pc).toNat))))

/-- The 256 opcode bytes: 71 classify to nothing, namely the unassigned codes and the Format-1 and Format-2 opcodes with
a low bit set; 17 select Format 1 or 2; 168 select the F3_F4 family (R78, R81, R82). -/
def Obligations.OpcodeBytePartition : Prop :=
  (∀ b1 : Byte, (classify b1).isNone = true ↔
    (b1 &&& 0xFC#8 ∈ [0x8C#8, 0xBC#8, 0xCC#8, 0xE4#8, 0xFC#8] ∨
      (b1 &&& 0xFC#8 ∈ [0x90#8, 0x94#8, 0x98#8, 0x9C#8, 0xA0#8, 0xA4#8, 0xA8#8, 0xAC#8, 0xB0#8, 0xB4#8, 0xB8#8, 0xC0#8,
        0xC4#8, 0xC8#8, 0xF0#8, 0xF4#8, 0xF8#8] ∧ b1 &&& 3#8 ≠ 0#8))) ∧
  ((List.range 256).filter fun v => (classify (BitVec.ofNat 8 v)).isNone).length = 71 ∧
  ((List.range 256).filter fun v => match classify (BitVec.ofNat 8 v) with
    | some (.f1 _) | some (.f2 _) => true
    | _ => false).length = 17 ∧
  ((List.range 256).filter fun v => match classify (BitVec.ofNat 8 v) with
    | some (.f34 _) => true
    | _ => false).length = 168

/-- Words of each family, written out from the layouts, decode to the instruction they stand for (R71 to R76, R88). -/
def Obligations.SampleWordsDecode : Prop :=
  decode [0xC0] = .ok (.float, []) ∧
  decode [0x90, 0x18] = .ok (.addr 1 8, []) ∧
  decode [0xA4, 0x03] = .ok (.shiftl 0 3, []) ∧
  decode [0x00, 0x83, 0x20] = .ok (.lda (.sic true 0x320), []) ∧
  decode [0x3B, 0x2F, 0xF9] = .ok (.jlt (.f3 ⟨true, true, false, false, true⟩ 0xFF9), []) ∧
  decode [0x53, 0xC0, 0x00] = .ok (.ldch (.f3 ⟨true, true, true, true, false⟩ 0), []) ∧
  decode [0x29, 0x00, 0x41] = .ok (.comp (.f3 ⟨false, true, false, false, false⟩ 0x41), []) ∧
  decode [0x17, 0x10, 0x03, 0x00] = .ok (.stl (.f4 ⟨true, true, false, false, false⟩ 0x300), []) ∧
  decode [0xD9, 0x00, 0x03] = .ok (.rd (.f3 ⟨false, true, false, false, false⟩ 3), []) ∧
  decode [0xFF, 0x00, 0x00] = .error (.unknownOpcode 0xFF)

/-! ### The step -/

/-- When the bytes at PC decode to an instruction and lie in memory, the step is the instruction's meaning in the state
with PC past them (40_decode_and_address.md R100, R101). -/
def Obligations.StepRunsDecodedInstruction : Prop :=
  ∀ (s : State) (i : Instr) (n : Nat), s.fault = none → s.waiting = none →
    decode (s.bytesFrom (s.get .pc).toNat n) = .ok (i, []) → (s.get .pc).toNat + n ≤ 0x100000 →
    step s = exec i (s.write .pc (s.read .pc + (n : Int)))

/-- An opcode byte that classifies to nothing ends the step after one fetch: PC one higher, FAULT set, nothing else
changed (R102). -/
def Obligations.UnknownOpcodeFaultsAfterOneByte : Prop :=
  ∀ (s : State) (b1 : Byte), s.fault = none → s.waiting = none → (s.get .pc).toNat ≤ 0xFFFFF →
    s.byteAt (s.get .pc).toNat = b1 → (classify b1).isNone = true →
    step s = .next ((s.write .pc (s.read .pc + 1)).setFault (some (.decodeFailure (.unknownOpcode b1))))

/-- A fetch at a PC that is no memory address faults with PC's signed reading and does not advance PC (10_state.md
R25). -/
def Obligations.FetchAtUnmappedPCFaults : Prop :=
  ∀ s : State, s.fault = none → s.waiting = none → (s.read .pc < 0 ∨ 0xFFFFF < s.read .pc) →
    step s = .next (s.setFault (some (.addressRange (s.read .pc))))

/-- An instruction that runs past the end of memory faults at address 0x100000, with PC there and nothing else changed
(R101). -/
def Obligations.FetchPastEndOfMemoryFaults : Prop :=
  ∀ s : State, s.fault = none → s.waiting = none → (s.get .pc).toNat ≤ 0xFFFFF →
    decode (s.bytesFrom (s.get .pc).toNat (0x100000 - (s.get .pc).toNat)) = .error .truncated →
    step s = .next ((s.write .pc 0x100000).setFault (some (.addressRange 0x100000)))

/-- The FAULT latch: none after reset; a step that returns Halt(K) has set it to K; while it is set a step changes
nothing and returns the same Halt; of the host's actions only reset clears it (10_state.md R30, the spec's own decision
D21; that a halt is a next state with the latch set is log entry 1). -/
def Obligations.LatchedFaultFreezesTheCore : Prop :=
  State.reset.fault = none ∧
  (∀ (s t : State) (k : Fault), step s = .next t → t.report = .halt k → t.fault = some k) ∧
  (∀ (s : State) (k : Fault), s.fault = some k → step s = .next s ∧ s.report = .halt k) ∧
  (∀ (s : State) (k : Fault) (act : HostAction), s.fault = some k →
    (act = .reset → s.waiting = none → (hostAct act s).state.fault = none) ∧
    (act ≠ .reset → (hostAct act s).state.fault = some k))

/-- A step that waits on a device's read does nothing but ask again. Without a byte every register, memory and the devices
stay, it waits on, and it is reported unfinished; with a byte it ends, the byte in the low byte of A and the device's
stream one byte further on; at the end of the stream it ends with 0; when the read fails it takes DeviceFault and no
register changes. No other device changes. The device is one that answers from the environment (60_exceptions.md R249,
46_device_system.md R221). The unfinished step as a state of its own is the model's choice (log entry 3), its report too
(log entry 23), and so are that an input or a replaced device yields 0 at the end of its stream (log entry 22), the count
of the bytes delivered and the list of those written (log entry 9), and that a failed read leaves the device's variant as
it was (log entry 5). -/
def Obligations.WaitingStepResumes : Prop :=
  ∀ (s : State) (d : Byte), s.fault = none → s.waiting = some d →
    (s.device d).kind ≠ .output → (s.device d).kind ≠ .error →
    let lowA (v : Nat) : Word := BitVec.ofNat 24 ((s.get .a).toNat / 256 * 256 + v)
    let frame (t : State) : Prop := SameRegsExcept [.a] s t ∧ t.regF = s.regF ∧ SameMemory s t ∧ t.run = s.run ∧
      t.speed = s.speed ∧ (∀ e, e ≠ d → t.device e = s.device e) ∧ (t.device d).kind = (s.device d).kind
    (s.readAnswer d = .noByteYet → ∃ t, step s = .next t ∧ t.waiting = some d ∧ t.report = .unfinished ∧
      t.get .a = s.get .a ∧ frame t ∧ t.devices = s.devices) ∧
    (∀ v, s.readAnswer d = .byte v → ∃ t, step s = .next t ∧ t.waiting = none ∧ t.report = .ok ∧
      t.get .a = lowA v.toNat ∧ frame t ∧ (t.device d).bytesRead = (s.device d).bytesRead + 1 ∧
      (t.device d).written = (s.device d).written ∧ ((s.device d).kind = .file → (t.device d).opened = true)) ∧
    (s.readAnswer d = .endOfStream → ∃ t, step s = .next t ∧ t.waiting = none ∧ t.report = .ok ∧
      t.get .a = lowA 0 ∧ frame t ∧ (t.device d).bytesRead = (s.device d).bytesRead ∧
      (t.device d).written = (s.device d).written ∧ ((s.device d).kind = .file → (t.device d).opened = true)) ∧
    (∀ left, s.readAnswer d = .failed left → ∃ t, step s = .next t ∧ t.waiting = none ∧
      t.report = .halt (.device d) ∧ t.get .a = s.get .a ∧ frame t)

/-- Every invocation of the core answers a next state: no instruction is refused and none stops the model
(40_decode_and_address.md R100, R108). That a halt is a next state with the latch set (log entry 1), and that an invocation whose read is blocked
answers a next state although the spec's step has then not finished (60_exceptions.md R249, 70_reset_and_hazards.md R270;
log entry 3), are the model's choice. -/
def Obligations.EveryStepCompletes : Prop := ∀ s : State, ∃ t, step s = .next t

/-- Only the faults of the spec's table can be latched, each with information its kind can record; InternalDispatchError
never is (60_exceptions.md R230 to R237, 40_decode_and_address.md R108). -/
def Obligations.LatchedFaultsArePossible : Prop :=
  ∀ s t : State, (∀ k, s.fault = some k → k.possible = true) → step s = .next t →
    ∀ k, t.fault = some k → k.possible = true

/-- Every step keeps the invariant of the state: memory and the device table in the model's canonical form, SPEED in 1 to
10^9, an active timer's interval at least 1 ns, and no read waited on once a fault is latched (20_memory.md R50,
60_exceptions.md R245, 10_state.md R30, R31; the form of the lists and the waiting read are the model's choice, log entries
3 and 9). -/
def Obligations.StepKeepsInvariant : Prop := ∀ s t : State, s.Inv → step s = .next t → t.Inv

/-- The invariant holds at reset (10_state.md R33; log entries 3 and 9 for its parts that are the model's choice). -/
def Obligations.ResetMeetsInvariant : Prop := State.reset.Inv

/-- Every action of the host keeps the invariant (10_state.md R34; log entries 3, 9, 11 and 12). -/
def Obligations.HostActionKeepsInvariant : Prop :=
  ∀ (s : State) (act : HostAction), s.Inv → (hostAct act s).state.Inv

/-- Whatever the host does between steps and whatever the environment answers, the machine stays in states that meet the
invariant, with a possible fault in the latch (60_exceptions.md R244, R246; the environment's answers are log entry 2). -/
def Obligations.ReachableStatesMeetInvariant : Prop :=
  ∀ s : State, Reachable s → s.Inv ∧ ∀ k, s.fault = some k → k.possible = true

/-- Every fault is precise. PC is past exactly the bytes this step fetched: it is what the fetch left (`State.afterFetch`;
PC itself when the step goes on with a blocked read), and past the instruction's bytes where they all lie in memory. No
other register and no byte of memory changed; unless a device operation failed, nothing but PC and FAULT changed, and where
one failed, no other device changed (40_decode_and_address.md R118, 60_exceptions.md R239). -/
def Obligations.FaultsArePrecise : Prop :=
  ∀ (s t : State) (k : Fault), s.fault = none → step s = .next t → t.fault = some k →
    t.get .pc = s.afterFetch.get .pc ∧
    (∃ n : Nat, n ≤ 4 ∧ t.get .pc = trunc24 (s.read .pc + (n : Int))) ∧
    (∀ (i : Instr) (n : Nat), s.waiting = none → decode (s.bytesFrom (s.get .pc).toNat n) = .ok (i, []) →
      (s.get .pc).toNat + n ≤ 0x100000 → t.get .pc = trunc24 (s.read .pc + (n : Int))) ∧
    SameRegsExcept [.pc] s t ∧ t.regF = s.regF ∧ SameMemory s t ∧ t.run = s.run ∧ t.speed = s.speed ∧
    ((∀ d, k ≠ .device d) →
      t.devices = s.devices ∧ t.waiting = s.waiting ∧ t.readAnswers = s.readAnswers ∧
      t.writeAnswers = s.writeAnswers ∧ t.testAnswers = s.testAnswers ∧ t.envTime = s.envTime) ∧
    (∀ d e, k = .device d → e ≠ d → t.device e = s.device e)

/-- The values after reset: registers, F, memory, RUN, the device variants and no file open (10_state.md R33); FAULT is
None by the spec's own decision D21, and SPEED is the open parameter INITIAL_SPEED_HZ in 1 to 10^9 (log entry 7). -/
def Obligations.ResetValues : Prop :=
  (∀ r, State.reset.read r = 0) ∧ State.reset.regF = ⟨0, 0, 0, 0, 0, 0⟩ ∧ (∀ a, State.reset.byteAt a = 0) ∧
  State.reset.fault = none ∧ State.reset.run = .stopped ∧
  State.reset.speed = Config.initialSpeedHz ∧ 1 ≤ Config.initialSpeedHz ∧ Config.initialSpeedHz ≤ 1000000000 ∧
  (State.reset.device 0).kind = .input ∧ (State.reset.device 1).kind = .output ∧
  (State.reset.device 2).kind = .error ∧ (∀ d : Byte, 3 ≤ d.toNat → (State.reset.device d).kind = .file) ∧
  (∀ d : Byte, (State.reset.device d).opened = false)

/-- The clock controller's state: initially stopped; the speed is 1 to 10^9 in every state the machine can be in; no step
writes RUN or SPEED, and none reads them, since with other values in them it does the same (10_state.md R31). -/
def Obligations.StepLeavesTheClockAlone : Prop :=
  State.reset.run = .stopped ∧
  (∀ s : State, Reachable s → 1 ≤ s.speed ∧ s.speed ≤ 1000000000) ∧
  (∀ (s t : State) (r : RunState) (hz : Nat), step s = .next t → t.run = s.run ∧ t.speed = s.speed ∧
    step { s with run := r, speed := hz } = .next { t with run := r, speed := hz })

/-- A finished machine, spinning on a jump to its own address or with a fault latched, does not change any more
(70_reset_and_hazards.md R269, the spec's own decision D23). A Format-2 write to index 8 is a jump too (42_format2.md
R140). That a taken conditional jump, RSUB, and JSUB once L holds its return address count, and that a resolved jump counts
only when its exact target is its own address, are the model's choice, log entry 20. -/
def Obligations.FinishedStateIsAFixedPoint : Prop := ∀ s : State, s.finished = true → step s = .next s

/-! ### Registers and memory -/

/-- The law of the integer slots: a write stores the value modulo 2^24, a read yields the signed reading, every other
slot keeps its value (10_state.md R21, with the spec's own decision D2). -/
def Obligations.RegisterReadAfterWrite : Prop :=
  ∀ (s : State) (r q : Reg) (v : Int),
    (((s.write r v).get r).toNat : Int) = v % 16777216 ∧
    (s.write r v).read r = (v + 8388608) % 16777216 - 8388608 ∧
    -8388608 ≤ s.read r ∧ s.read r ≤ 8388607 ∧ (q ≠ r → (s.write r v).read q = s.read q)

/-- The range rule: an access of n bytes at a is legal exactly when 0 <= a and a + n - 1 <= 0xFFFFF; any other access
raises AddressRangeFault(a), with no state (20_memory.md R53, the spec's own decision D10). -/
def Obligations.AccessRangeRule : Prop :=
  ∀ (s : State) (a : Int),
    ((0 ≤ a ∧ a + 1 - 1 ≤ 0xFFFFF → ∃ v, memRead1 s a = .ok v) ∧
      (¬(0 ≤ a ∧ a + 1 - 1 ≤ 0xFFFFF) → memRead1 s a = .error (.addressRange a))) ∧
    ((0 ≤ a ∧ a + 3 - 1 ≤ 0xFFFFF → ∃ v, memRead3 s a = .ok v) ∧
      (¬(0 ≤ a ∧ a + 3 - 1 ≤ 0xFFFFF) → memRead3 s a = .error (.addressRange a))) ∧
    ((0 ≤ a ∧ a + 6 - 1 ≤ 0xFFFFF → ∃ v, memRead6 s a = .ok v) ∧
      (¬(0 ≤ a ∧ a + 6 - 1 ≤ 0xFFFFF) → memRead6 s a = .error (.addressRange a))) ∧
    (∀ bs : List Byte,
      (0 ≤ a ∧ a + (bs.length : Int) - 1 ≤ 0xFFFFF → ∃ t, memWrite s a bs = .ok t) ∧
      (¬(0 ≤ a ∧ a + (bs.length : Int) - 1 ≤ 0xFFFFF) → memWrite s a bs = .error (.addressRange a)))

/-- A word written at an address reads back from it, lies there most significant byte first, and no other byte changes
(20_memory.md R52, R56). -/
def Obligations.WordRoundTripIsBigEndian : Prop :=
  ∀ (s t : State) (a : Int) (w : Word), memWrite s a (bytesOfWord w) = .ok t →
    memRead3 t a = .ok w ∧
    (t.byteAt a.toNat).toNat = w.toNat / 65536 ∧ (t.byteAt (a.toNat + 1)).toNat = w.toNat / 256 % 256 ∧
    (t.byteAt (a.toNat + 2)).toNat = w.toNat % 256 ∧
    SameMemoryOutside a 3 s t ∧ SameRegsExcept [] s t ∧ t.regF = s.regF ∧ SameRest s t

/-! ### Addressing -/

/-- The addressing table: immediate, absolute, relative to PC or to B, through a pointer, and indexed last
(40_decode_and_address.md R110 to R114, R117). -/
def Obligations.ResolveFollowsTheAddressingTable : Prop :=
  ∀ s : State,
    (∀ x addr, resolve s (.sic x addr) = .ok ((addr.toNat : Int) + indexPart s x)) ∧
    (∀ x b p disp, resolve s (.f3 ⟨false, true, x, b, p⟩ disp) = .ok (disp.toNat : Int)) ∧
    (∀ x b p addr, resolve s (.f4 ⟨false, true, x, b, p⟩ addr) = .ok (addr.toNat : Int)) ∧
    (∀ i x b disp, resolve s (.f3 ⟨true, i, x, b, b⟩ disp) =
      .error (.decodeFailure (.invalidAddressing ⟨true, i, x, b, b⟩))) ∧
    (∀ x disp, resolve s (.f3 ⟨true, true, x, false, true⟩ disp) = .ok (s.read .pc + disp.toInt + indexPart s x)) ∧
    (∀ x disp, resolve s (.f3 ⟨true, true, x, true, false⟩ disp) =
      .ok (s.read .b + (disp.toNat : Int) + indexPart s x)) ∧
    (∀ x b p addr, resolve s (.f4 ⟨true, true, x, b, p⟩ addr) = .ok ((addr.toNat : Int) + indexPart s x)) ∧
    (∀ x disp, resolve s (.f3 ⟨true, false, x, false, true⟩ disp) =
      throughPointer s (s.read .pc + disp.toInt) x) ∧
    (∀ x disp, resolve s (.f3 ⟨true, false, x, true, false⟩ disp) =
      throughPointer s (s.read .b + (disp.toNat : Int)) x) ∧
    (∀ x b p addr, resolve s (.f4 ⟨true, false, x, b, p⟩ addr) = throughPointer s (addr.toNat : Int) x)

/-- Operand values: an immediate is the raw operand, non-negative, or its low 8 bits, and reads no memory; else the
signed big-endian word, or the byte, at the effective address (40_decode_and_address.md R115). -/
def Obligations.OperandValues : Prop :=
  ∀ (s : State) (m : Operand),
    (isImmediate m = true → operandWord s m = .ok (rawOperand m : Int) ∧
      operandByte s m = .ok (BitVec.ofNat 8 (rawOperand m))) ∧
    (∀ u, isImmediate m = false → resolve s m = .ok u →
      (0 ≤ u ∧ u + 2 ≤ 0xFFFFF → operandWord s m = .ok (BitVec.toInt (BitVec.ofNat 24
        ((s.byteAt u.toNat).toNat * 65536 + (s.byteAt (u.toNat + 1)).toNat * 256 +
          (s.byteAt (u.toNat + 2)).toNat)))) ∧
      (¬(0 ≤ u ∧ u + 2 ≤ 0xFFFFF) → operandWord s m = .error (.addressRange u)) ∧
      (0 ≤ u ∧ u ≤ 0xFFFFF → operandByte s m = .ok (s.byteAt u.toNat)) ∧
      (¬(0 ≤ u ∧ u ≤ 0xFFFFF) → operandByte s m = .error (.addressRange u))) ∧
    (∀ k, resolve s m = .error k → operandWord s m = .error k ∧ operandByte s m = .error k)

/-! ### Loads and stores -/

/-- LDA, LDX, LDL, LDB, LDS, LDT complete on every readable operand: the register takes its 24 bits, nothing else
changes (43_load_store.md R161 to R166). -/
def Obligations.WordLoadResult : Prop :=
  ∀ (s : State) (m : Operand) (v : Int), operandWord s m = .ok v →
    WritesReg (.lda m) s .a (trunc24 v) ∧ WritesReg (.ldx m) s .x (trunc24 v) ∧
    WritesReg (.ldl m) s .l (trunc24 v) ∧ WritesReg (.ldb m) s .b (trunc24 v) ∧
    WritesReg (.lds m) s .s (trunc24 v) ∧ WritesReg (.ldt m) s .t (trunc24 v)

/-- LDCH completes on every readable operand byte: it replaces the low byte of A and keeps bits 23 to 8 (R167). -/
def Obligations.ByteLoadResult : Prop :=
  ∀ (s : State) (m : Operand) (v : Byte), operandByte s m = .ok v →
    WritesReg (.ldch m) s .a (BitVec.ofNat 24 ((s.get .a).toNat / 256 * 256 + v.toNat))

/-- LDF completes when it is not immediate and its six bytes are in memory: F[k] = M[U + k], nothing else changes
(R168). -/
def Obligations.FloatLoadResult : Prop :=
  ∀ (s : State) (m : Operand) (u : Int), isImmediate m = false → resolve s m = .ok u → 0 ≤ u → u + 5 ≤ 0xFFFFF →
    ∃ t, exec (.ldf m) s = .next t ∧ (∀ k (h : k < 6), t.regF.toList[k]'h = s.byteAt (u.toNat + k)) ∧
      SameRegsExcept [] s t ∧ SameMemory s t ∧ SameRest s t

/-- LDF in its immediate form raises UnimplementedInstruction before any address is resolved (R168). -/
def Obligations.ImmediateFloatLoadTraps : Prop :=
  ∀ (s : State) (m : Operand), isImmediate m = true → Traps (.ldf m) s (.unimplemented "LDF")

/-- STA, STX, STL, STB, STS, STT, STSW complete when the word at the resolved address lies in memory: the register's
bytes are stored there, most significant first, nothing else changes (R169 to R175). -/
def Obligations.WordStoreResult : Prop :=
  ∀ (s : State) (m : Operand) (u : Int), resolve s m = .ok u → 0 ≤ u → u + 2 ≤ 0xFFFFF →
    let bytes (r : Reg) : List Byte := [BitVec.ofNat 8 ((s.get r).toNat / 65536),
      BitVec.ofNat 8 ((s.get r).toNat / 256), BitVec.ofNat 8 (s.get r).toNat]
    StoresBytes (.sta m) s u.toNat (bytes .a) ∧ StoresBytes (.stx m) s u.toNat (bytes .x) ∧
    StoresBytes (.stl m) s u.toNat (bytes .l) ∧ StoresBytes (.stb m) s u.toNat (bytes .b) ∧
    StoresBytes (.sts m) s u.toNat (bytes .s) ∧ StoresBytes (.stt m) s u.toNat (bytes .t) ∧
    StoresBytes (.stsw m) s u.toNat (bytes .sw)

/-- STCH completes when its byte lies in memory and stores the low byte of A; STF completes when its six bytes lie in
memory and stores F[0] to F[5]; nothing else changes (R176, R177). -/
def Obligations.ByteAndFloatStoreResult : Prop :=
  ∀ (s : State) (m : Operand) (u : Int), resolve s m = .ok u → 0 ≤ u →
    (u ≤ 0xFFFFF → StoresBytes (.stch m) s u.toNat [BitVec.ofNat 8 (s.get .a).toNat]) ∧
    (u + 5 ≤ 0xFFFFF → StoresBytes (.stf m) s u.toNat
      [s.regF.f0, s.regF.f1, s.regF.f2, s.regF.f3, s.regF.f4, s.regF.f5])

/-! ### Arithmetic, logic, compare -/

/-- ADD, SUB, MUL complete on every readable operand: A takes the exact result modulo 2^24, nothing else changes
(44_arith_logic_compare.md R191 to R193). -/
def Obligations.ArithmeticResult : Prop :=
  ∀ (s : State) (m : Operand) (v : Int), operandWord s m = .ok v →
    WritesReg (.add m) s .a (trunc24 (s.read .a + v)) ∧ WritesReg (.sub m) s .a (trunc24 (s.read .a - v)) ∧
    WritesReg (.mul m) s .a (trunc24 (s.read .a * v))

/-- DIV completes on every readable operand that is not 0: A takes the quotient truncated toward zero, modulo 2^24,
nothing else changes (R194). -/
def Obligations.DivisionResult : Prop :=
  ∀ (s : State) (m : Operand) (v : Int), operandWord s m = .ok v → v ≠ 0 →
    WritesReg (.div m) s .a (trunc24 ((s.read .a).tdiv v))

/-- Division by zero takes ArithmeticFault with nothing else changed, the destination included, in DIV and in DIVR; and no
other instruction and no other operand takes it: there is no overflow fault (60_exceptions.md R233). -/
def Obligations.DivisionByZeroTraps : Prop :=
  (∀ (s : State) (m : Operand), operandWord s m = .ok 0 → Traps (.div m) s .arithmetic) ∧
  (∀ (s : State) (p q : Reg), s.read p = 0 → Traps (.divr (regIndex p) (regIndex q)) s .arithmetic) ∧
  (∀ (i : Instr) (s t : State), exec i s = .next t → s.fault ≠ some .arithmetic → t.fault = some .arithmetic →
    (∃ m, i = .div m ∧ operandWord s m = .ok 0) ∨
      ∃ p q, i = .divr (regIndex p) (regIndex q) ∧ s.read p = 0)

/-- AND and OR complete on every readable operand: bitwise on 24 bits into A, nothing else changes (R195, R196). -/
def Obligations.LogicResult : Prop :=
  ∀ (s : State) (m : Operand) (v : Int), operandWord s m = .ok v →
    WritesReg (.and m) s .a (s.get .a &&& BitVec.ofInt 24 v) ∧
    WritesReg (.or m) s .a (s.get .a ||| BitVec.ofInt 24 v)

/-- COMP completes on every readable operand: SW takes the condition code of A against it, nothing else changes
(R197). -/
def Obligations.CompareResult : Prop :=
  ∀ (s : State) (m : Operand) (v : Int), operandWord s m = .ok v →
    WritesReg (.comp m) s .sw (ccBits (s.read .a) v)

/-- TIX completes on every readable operand: X one higher modulo 2^24, SW the condition code of the new X against the
operand read with the old X, nothing else changes (R198). -/
def Obligations.IncrementAndCompareResult : Prop :=
  ∀ (s : State) (m : Operand) (v : Int), operandWord s m = .ok v →
    WritesRegs (.tix m) s [.x, .sw] fun t =>
      t.get .x = s.get .x + 1 ∧ t.get .sw = ccBits (s.get .x + 1).toInt v

/-! ### Control transfer -/

/-- J, JEQ, JGT, JLT complete whenever the target resolves: PC takes the target modulo 2^24 when the jump is taken, on
the sign of SW, and stays otherwise; nothing else changes (45_jump.md R211 to R214). -/
def Obligations.JumpResult : Prop :=
  ∀ (s : State) (m : Operand) (u : Int), resolve s m = .ok u →
    WritesReg (.j m) s .pc (trunc24 u) ∧
    WritesReg (.jeq m) s .pc (if s.get .sw = 0 then trunc24 u else s.get .pc) ∧
    WritesReg (.jgt m) s .pc (if 0 < s.read .sw then trunc24 u else s.get .pc) ∧
    WritesReg (.jlt m) s .pc (if s.read .sw < 0 then trunc24 u else s.get .pc)

/-- JSUB completes whenever its target resolves: L takes PC, the address after the instruction, and PC the target; RSUB
completes always, whatever its operand: PC takes L; nothing else changes (R215, R216). -/
def Obligations.CallAndReturnResult : Prop :=
  (∀ (s : State) (m : Operand) (u : Int), resolve s m = .ok u →
    WritesRegs (.jsub m) s [.l, .pc] fun t => t.get .l = s.get .pc ∧ t.get .pc = trunc24 u) ∧
  (∀ (s : State) (m : Operand), WritesReg (.rsub m) s .pc (s.get .l))

/-! ### Format 2 -/

/-- ADDR, SUBR, MULR complete on any two of the eight slots: r2 takes the exact result modulo 2^24, nothing else changes
(42_format2.md R142 to R144). -/
def Obligations.RegisterArithmeticResult : Prop :=
  ∀ (s : State) (p q : Reg),
    WritesReg (.addr (regIndex p) (regIndex q)) s q (trunc24 (s.read q + s.read p)) ∧
    WritesReg (.subr (regIndex p) (regIndex q)) s q (trunc24 (s.read q - s.read p)) ∧
    WritesReg (.mulr (regIndex p) (regIndex q)) s q (trunc24 (s.read q * s.read p))

/-- DIVR completes on any two slots when the divisor is not 0: r2 takes the quotient truncated toward zero, modulo 2^24,
nothing else changes (R145). -/
def Obligations.RegisterDivisionResult : Prop :=
  ∀ (s : State) (p q : Reg), s.read p ≠ 0 →
    WritesReg (.divr (regIndex p) (regIndex q)) s q (trunc24 ((s.read q).tdiv (s.read p)))

/-- COMPR completes on any two slots: SW takes the condition code of r1 against r2, both read before SW is written;
nothing else changes (R146). -/
def Obligations.RegisterCompareResult : Prop :=
  ∀ (s : State) (p q : Reg),
    WritesReg (.compr (regIndex p) (regIndex q)) s .sw (ccBits (s.read p) (s.read q))

/-- SHIFTL rotates any slot left and SHIFTR shifts it right arithmetically, by the r2 field plus 1; nothing else
changes (R147, R148). -/
def Obligations.ShiftResult : Prop :=
  ∀ (s : State) (p : Reg) (c : BitVec 4),
    WritesReg (.shiftl (regIndex p) c) s p ((s.get p).rotateLeft (c.toNat + 1)) ∧
    WritesReg (.shiftr (regIndex p) c) s p ((s.get p).sshiftRight (c.toNat + 1))

/-- RMO copies any slot to any slot, CLEAR puts 0 into any slot whatever its r2 field; nothing else changes (R149,
R150). -/
def Obligations.MoveAndClearResult : Prop :=
  ∀ (s : State) (p q : Reg) (r2 : BitVec 4),
    WritesReg (.rmo (regIndex p) (regIndex q)) s q (s.get p) ∧ WritesReg (.clear (regIndex p) r2) s p 0

/-- TIXR completes on any slot whatever its r2 field: X one higher modulo 2^24, SW the condition code of the new X
against r1, read after the write of X; nothing else changes (R151). -/
def Obligations.RegisterIncrementAndCompareResult : Prop :=
  ∀ (s : State) (p : Reg) (r2 : BitVec 4),
    WritesRegs (.tixr (regIndex p) r2) s [.x, .sw] fun t =>
      t.get .x = s.get .x + 1 ∧
      t.get .sw = ccBits (s.get .x + 1).toInt (if p = .x then (s.get .x + 1).toInt else s.read p)

/-- A register field that names no slot traps before any register is read or written: index 6 as
UnimplementedInstruction, 7 and 10 to 15 as RegisterIndexFault; r1 is checked before r2 (R141). -/
def Obligations.BadRegisterIndexTraps : Prop :=
  ∀ (s : State) (r1 r2 : BitVec 4),
    (slotOf r1 = none →
      Traps (.addr r1 r2) s (indexFault "ADDR" r1) ∧ Traps (.subr r1 r2) s (indexFault "SUBR" r1) ∧
      Traps (.mulr r1 r2) s (indexFault "MULR" r1) ∧ Traps (.divr r1 r2) s (indexFault "DIVR" r1) ∧
      Traps (.compr r1 r2) s (indexFault "COMPR" r1) ∧ Traps (.rmo r1 r2) s (indexFault "RMO" r1) ∧
      Traps (.shiftl r1 r2) s (indexFault "SHIFTL" r1) ∧ Traps (.shiftr r1 r2) s (indexFault "SHIFTR" r1) ∧
      Traps (.clear r1 r2) s (indexFault "CLEAR" r1) ∧ Traps (.tixr r1 r2) s (indexFault "TIXR" r1)) ∧
    (slotOf r1 ≠ none → slotOf r2 = none →
      Traps (.addr r1 r2) s (indexFault "ADDR" r2) ∧ Traps (.subr r1 r2) s (indexFault "SUBR" r2) ∧
      Traps (.mulr r1 r2) s (indexFault "MULR" r2) ∧ Traps (.divr r1 r2) s (indexFault "DIVR" r2) ∧
      Traps (.compr r1 r2) s (indexFault "COMPR" r2) ∧ Traps (.rmo r1 r2) s (indexFault "RMO" r2))

/-! ### Faults of the instructions -/

/-- The 15 unimplemented opcodes take UnimplementedInstruction with their mnemonic, whatever their fields, with nothing
else changed (60_exceptions.md R232). -/
def Obligations.UnimplementedOpcodesTrap : Prop :=
  ∀ (s : State) (m : Operand) (r1 r2 : BitVec 4),
    Traps .float s (.unimplemented "FLOAT") ∧ Traps .fix s (.unimplemented "FIX") ∧
    Traps .norm s (.unimplemented "NORM") ∧ Traps .sio s (.unimplemented "SIO") ∧
    Traps .hio s (.unimplemented "HIO") ∧ Traps .tio s (.unimplemented "TIO") ∧
    Traps (.svc r1 r2) s (.unimplemented "SVC") ∧ Traps (.addf m) s (.unimplemented "ADDF") ∧
    Traps (.subf m) s (.unimplemented "SUBF") ∧ Traps (.mulf m) s (.unimplemented "MULF") ∧
    Traps (.divf m) s (.unimplemented "DIVF") ∧ Traps (.compf m) s (.unimplemented "COMPF") ∧
    Traps (.lps m) s (.unimplemented "LPS") ∧ Traps (.sti m) s (.unimplemented "STI") ∧
    Traps (.ssk m) s (.unimplemented "SSK")

/-- An instruction whose address or operand cannot be had takes the fault that was met, with nothing else changed; a
conditional jump does so also when it would not be taken (40_decode_and_address.md R118, 43_load_store.md R160,
45_jump.md R210). -/
def Obligations.OperandFaultsTrap : Prop :=
  ∀ (s : State) (m : Operand) (k : Fault),
    (operandWord s m = .error k →
      Traps (.lda m) s k ∧ Traps (.ldx m) s k ∧ Traps (.ldl m) s k ∧ Traps (.ldb m) s k ∧ Traps (.lds m) s k ∧
      Traps (.ldt m) s k ∧ Traps (.add m) s k ∧ Traps (.sub m) s k ∧ Traps (.mul m) s k ∧ Traps (.div m) s k ∧
      Traps (.and m) s k ∧ Traps (.or m) s k ∧ Traps (.comp m) s k ∧ Traps (.tix m) s k) ∧
    (operandByte s m = .error k →
      Traps (.ldch m) s k ∧ Traps (.rd m) s k ∧ Traps (.wd m) s k ∧ Traps (.td m) s k) ∧
    (resolve s m = .error k →
      Traps (.sta m) s k ∧ Traps (.stx m) s k ∧ Traps (.stl m) s k ∧ Traps (.stb m) s k ∧ Traps (.sts m) s k ∧
      Traps (.stt m) s k ∧ Traps (.stsw m) s k ∧ Traps (.stch m) s k ∧ Traps (.stf m) s k ∧ Traps (.ldf m) s k ∧
      Traps (.j m) s k ∧ Traps (.jeq m) s k ∧ Traps (.jgt m) s k ∧ Traps (.jlt m) s k ∧ Traps (.jsub m) s k)

/-- A store, or LDF, whose bytes do not all lie in memory takes AddressRangeFault with the effective address, and not
even the bytes in range are stored (R169, R168, R176, R177, 20_memory.md R53). -/
def Obligations.OutOfRangeStoresTrap : Prop :=
  ∀ (s : State) (m : Operand) (u : Int), resolve s m = .ok u →
    ((u < 0 ∨ 0xFFFFF < u + 2) →
      Traps (.sta m) s (.addressRange u) ∧ Traps (.stx m) s (.addressRange u) ∧ Traps (.stl m) s (.addressRange u) ∧
      Traps (.stb m) s (.addressRange u) ∧ Traps (.sts m) s (.addressRange u) ∧ Traps (.stt m) s (.addressRange u) ∧
      Traps (.stsw m) s (.addressRange u)) ∧
    ((u < 0 ∨ 0xFFFFF < u) → Traps (.stch m) s (.addressRange u)) ∧
    ((u < 0 ∨ 0xFFFFF < u + 5) → Traps (.stf m) s (.addressRange u) ∧
      (isImmediate m = false → Traps (.ldf m) s (.addressRange u)))

/-! ### Devices -/

/-- RD with a readable operand byte d, for every answer. An output or error device yields 0, always and unasked (log entry
4). A device that answers from the environment delivers its byte, and 0 at the end of its stream (for an input or a
replaced device the model's choice, log entry 22); in each case the byte goes into the low byte of A, bits 23 to 8 stay, no
other register, no memory and no other device changes, and a byte delivered moves the device's stream on by one (log entry
9). While there is no byte yet the step stays unfinished with every register as it was (log entry 3). When the read fails,
DeviceFault is taken and no register changes; that the device's variant stays then is the model's choice (log entry 5)
(46_device_system.md R221, 60_exceptions.md R234, R247, R249). -/
def Obligations.ReadDeviceResult : Prop :=
  ∀ (s : State) (m : Operand) (d : Byte), operandByte s m = .ok d →
    let lowA (v : Nat) : Word := BitVec.ofNat 24 ((s.get .a).toNat / 256 * 256 + v)
    let frame (t : State) : Prop := SameRegsExcept [.a] s t ∧ t.regF = s.regF ∧ SameMemory s t ∧
      t.run = s.run ∧ t.speed = s.speed ∧ (∀ e, e ≠ d → t.device e = s.device e) ∧
      (t.device d).kind = (s.device d).kind
    ((s.device d).kind = .output ∨ (s.device d).kind = .error →
      ∃ t, exec (.rd m) s = .next t ∧ t.get .a = lowA 0 ∧ t.waiting = none ∧ t.fault = s.fault ∧ frame t ∧
        t.device d = s.device d) ∧
    ((s.device d).kind ≠ .output → (s.device d).kind ≠ .error →
      (∀ v, s.readAnswer d = .byte v → ∃ t, exec (.rd m) s = .next t ∧ t.get .a = lowA v.toNat ∧ t.waiting = none ∧
        t.fault = s.fault ∧ frame t ∧ (t.device d).bytesRead = (s.device d).bytesRead + 1 ∧
        (t.device d).written = (s.device d).written ∧
        ((s.device d).kind = .file → (t.device d).opened = true)) ∧
      (s.readAnswer d = .endOfStream → ∃ t, exec (.rd m) s = .next t ∧ t.get .a = lowA 0 ∧ t.waiting = none ∧
        t.fault = s.fault ∧ frame t ∧ (t.device d).bytesRead = (s.device d).bytesRead ∧
        (t.device d).written = (s.device d).written ∧
        ((s.device d).kind = .file → (t.device d).opened = true)) ∧
      (s.readAnswer d = .noByteYet → ∃ t, exec (.rd m) s = .next t ∧ t.waiting = some d ∧ t.get .a = s.get .a ∧
        t.fault = s.fault ∧ frame t ∧ t.device d = s.device d) ∧
      (∀ left, s.readAnswer d = .failed left → ∃ t, exec (.rd m) s = .next t ∧ t.fault = some (.device d) ∧
        t.waiting = none ∧ t.get .a = s.get .a ∧ frame t))

/-- WD with a readable operand byte d: an input device ignores the byte and nothing changes, always and unasked (log entry
4); any other device that takes it has the low byte of A added to what was written to it (the list of these bytes is the
model's, log entry 9); no register, no memory and no other device changes (46_device_system.md R222, 60_exceptions.md
R247). The write that fails is DeviceFailureTraps. -/
def Obligations.WriteDeviceResult : Prop :=
  ∀ (s : State) (m : Operand) (d : Byte), operandByte s m = .ok d →
    ((s.device d).kind = .input → exec (.wd m) s = .next s) ∧
    (∀ v : Byte, v.toNat = (s.get .a).toNat % 256 → (s.device d).kind ≠ .input → s.writeAnswer d v = .accepted →
      ∃ t, exec (.wd m) s = .next t ∧ (t.device d).written = (s.device d).written ++ [v] ∧
        (t.device d).kind = (s.device d).kind ∧ (t.device d).bytesRead = (s.device d).bytesRead ∧
        (∀ e, e ≠ d → t.device e = s.device e) ∧ SameRegsExcept [] s t ∧ t.regF = s.regF ∧ SameMemory s t ∧
        t.fault = s.fault ∧ t.waiting = s.waiting ∧ t.run = s.run ∧ t.speed = s.speed)

/-- TD with a readable operand byte d: SW takes -1 when the device is available and 0 when it is not; no other register,
no memory, no other device and none of the device's streams changes (46_device_system.md R223; the answer is the
environment's, log entry 2). The test that fails is DeviceFailureTraps. -/
def Obligations.TestDeviceResult : Prop :=
  ∀ (s : State) (m : Operand) (d : Byte), operandByte s m = .ok d →
    let frame (t : State) : Prop := SameRegsExcept [.sw] s t ∧ t.regF = s.regF ∧ SameMemory s t ∧
      t.fault = s.fault ∧ t.waiting = s.waiting ∧ t.run = s.run ∧ t.speed = s.speed ∧
      (t.device d).kind = (s.device d).kind ∧ (t.device d).bytesRead = (s.device d).bytesRead ∧
      (t.device d).written = (s.device d).written ∧ ∀ e, e ≠ d → t.device e = s.device e
    (s.testAnswer d = .available → ∃ t, exec (.td m) s = .next t ∧ t.get .sw = 0xFFFFFF ∧ frame t) ∧
    (s.testAnswer d = .unavailable → ∃ t, exec (.td m) s = .next t ∧ t.get .sw = 0 ∧ frame t)

/-- A device operation that fails takes DeviceFault with the device's index: no register, no memory and no other device
changes. What a failed read or write leaves in its device is open, its variant apart (log entry 5); a failed test leaves
the device as it was (60_exceptions.md R234, 40_decode_and_address.md R118). -/
def Obligations.DeviceFailureTraps : Prop :=
  ∀ (s : State) (m : Operand) (d : Byte), operandByte s m = .ok d →
    let trapped (i : Instr) (post : State → Prop) : Prop := ∃ t, exec i s = .next t ∧ t.fault = some (.device d) ∧
      SameRegsExcept [] s t ∧ t.regF = s.regF ∧ SameMemory s t ∧ (∀ e, e ≠ d → t.device e = s.device e) ∧
      (t.device d).kind = (s.device d).kind ∧ t.run = s.run ∧ t.speed = s.speed ∧ post t
    (∀ left, (s.device d).kind ≠ .output → (s.device d).kind ≠ .error → s.readAnswer d = .failed left →
      trapped (.rd m) fun _ => True) ∧
    (∀ (left : Device) (v : Byte), v.toNat = (s.get .a).toNat % 256 → (s.device d).kind ≠ .input →
      s.writeAnswer d v = .failed left → trapped (.wd m) fun t => t.waiting = s.waiting) ∧
    (s.testAnswer d = .failed → trapped (.td m) fun t => t.devices = s.devices ∧ t.waiting = s.waiting)

/-! ### What no other instruction changes -/

/-- Which instruction can write which integer slot: no step of an instruction changes a slot outside its write set; SW in
particular is written by COMP, COMPR, TIX, TIXR, TD and writes by index 9 only (10_state.md R23, R27). -/
def Obligations.InstructionsStayInTheirWriteSets : Prop :=
  ∀ (i : Instr) (s t : State), exec i s = .next t → SameRegsExcept (writeSet i) s t

/-- Memory is changed by the stores only, F by LDF only, the device table by RD, WD and TD only (20_memory.md R55, R56,
10_state.md R26, 60_exceptions.md R245). -/
def Obligations.OnlyTheirInstructionsChangeMemoryFAndDevices : Prop :=
  ∀ (i : Instr) (s t : State), exec i s = .next t →
    (storesToMemory i = false → SameMemory s t) ∧
    ((∀ m, i ≠ .ldf m) → t.regF = s.regF) ∧
    (reachesDevices i = false → t.devices = s.devices)

/-! ### The host -/

/-- The clock controller: set_speed clamps every speed to 1 to 10^9, and a running timer keeps its interval; it is stopped
after reset and after stop, running after start, with the interval 10^9 / speed where that is whole and less than 1 ns off
where it is not (the model's choice, log entry 8); a tick is one step while running and nothing while stopped
(what a tick does while a read is blocked is the model's choice, log entry 24) (60_exceptions.md R251, 70_reset_and_hazards.md R268, R271). -/
def Obligations.ClockControllerLaws : Prop :=
  ∀ (s : State) (hz : Nat),
    (hz < 1 → (clockSetSpeed hz s).speed = 1) ∧ (1000000000 < hz → (clockSetSpeed hz s).speed = 1000000000) ∧
    (1 ≤ hz → hz ≤ 1000000000 → (clockSetSpeed hz s).speed = hz) ∧ (clockSetSpeed hz s).run = s.run ∧
    clockIsRunning State.reset = false ∧ clockIsRunning (clockStart s) = true ∧ clockIsRunning (clockStop s) = false ∧
    (1 ≤ s.speed → s.speed ≤ 1000000000 → ∃ n, (clockStart s).run = .running n ∧
      (s.speed ∣ 1000000000 → n * s.speed = 1000000000) ∧
      n * s.speed < 1000000000 + s.speed ∧ 1000000000 < (n + 1) * s.speed) ∧
    (clockIsRunning s = true → tick s = step s) ∧ (clockIsRunning s = false → tick s = .next s)

/-- Object records, applied between steps. A T record whose bytes fit in memory writes them from its address on and changes
no other byte and no register. One that runs past the end writes the bytes that fit and ends with the first address that
does not exist; with no bytes it does nothing, wherever its address. An E record sets PC. H and M records do nothing. Every
other line is malformed and is refused, with nothing changed; so is a T record whose length disagrees with its bytes
(70_reset_and_hazards.md R264, R266, 20_memory.md R53; the two cases of the digits are log entry 12). While a step waits on
a device the host can do none of it, and nothing but stop(): not even reset it, which is the model's choice (20_memory.md
R64; log entries 11 and 14). -/
def Obligations.ObjectRecordsLoad : Prop :=
  (∀ (s : State) (addr : Nat) (bs : List Byte), s.waiting = none → bs.length < 256 → addr + bs.length ≤ 0x100000 →
    ∃ t, hostAct (.loadLine (textLine addr bs)) s = { state := t, error := none } ∧
      (∀ k (h : k < bs.length), t.byteAt (addr + k) = bs[k]) ∧ SameMemoryOutside (addr : Int) bs.length s t ∧
      SameRegsExcept [] s t ∧ t.regF = s.regF ∧ SameRest s t) ∧
  (∀ (s : State) (addr : Nat) (bs : List Byte), s.waiting = none → bs.length < 256 → addr < 16777216 →
    0x100000 < addr + bs.length → bs ≠ [] →
    ∃ t, hostAct (.loadLine (textLine addr bs)) s =
        { state := t, error := some (.addressRange ((max addr 0x100000 : Nat) : Int)) } ∧
      (∀ k (h : k < bs.length), addr + k ≤ 0xFFFFF → t.byteAt (addr + k) = bs[k]) ∧
      (∀ j, (j < addr ∨ 0xFFFFF < j) → t.byteAt j = s.byteAt j) ∧
      SameRegsExcept [] s t ∧ t.regF = s.regF ∧ SameRest s t) ∧
  (∀ (s : State) (addr : Nat), s.waiting = none → addr < 16777216 →
    hostAct (.loadLine (textLine addr [])) s = { state := s, error := none }) ∧
  (∀ (s : State) (addr : Nat), s.waiting = none → addr < 16777216 →
    ∃ t, hostAct (.loadLine ('E' :: hexText 6 addr)) s = { state := t, error := none } ∧ (t.get .pc).toNat = addr ∧
      SameRegsExcept [.pc] s t ∧ SameMemory s t ∧ t.regF = s.regF ∧ SameRest s t) ∧
  (∀ (s : State) (cs : List Char), s.waiting = none →
    hostAct (.loadLine ('H' :: cs)) s = { state := s, error := none } ∧
    hostAct (.loadLine ('M' :: cs)) s = { state := s, error := none }) ∧
  (∀ (s : State) (line : List Char), s.waiting = none →
    (wellFormedRecord line = false ↔
      hostAct (.loadLine line) s = { state := s, error := some .malformedRecord })) ∧
  (∀ (s : State) (addr len : Nat) (bs : List Byte), s.waiting = none → addr < 16777216 → len < 256 → len ≠ bs.length →
    hostAct (.loadLine ('T' :: (hexText 6 addr ++ hexText 2 len ++ bs.flatMap fun v => hexText 2 v.toNat))) s =
      { state := s, error := some .malformedRecord }) ∧
  (∀ (s : State) (d : Byte) (act : HostAction), s.waiting = some d →
    hostAct act s = if act = .stop then { state := clockStop s, error := none }
      else { state := s, error := some .busy })

/-- Between steps the host reads back what it puts into a register, F, and a byte, a word or a float of memory, and changes
nothing else; an access with a byte out of range is an error of the host and stores nothing; that the error carries the
address and that no FAULT is latched is the model's reading of R34 (log entry 12); a device it puts into a slot is the
device there. While a step waits on a device it reads nothing (log entry 11) (10_state.md R34, 20_memory.md R64, R65,
60_exceptions.md R250). -/
def Obligations.HostAccessesBetweenSteps : Prop :=
  ∀ s : State,
    (s.waiting = none →
      (∀ r v, ∃ t, hostAct (.setReg r v) s = { state := t, error := none } ∧ hostReadReg r t = .ok (s24 (trunc24 v)) ∧
        SameRegsExcept [r] s t ∧ t.regF = s.regF ∧ SameMemory s t ∧ SameRest s t) ∧
      (∀ f, ∃ t, hostAct (.setFloatReg f) s = { state := t, error := none } ∧ hostReadFloatReg t = .ok f ∧
        SameRegsExcept [] s t ∧ SameMemory s t ∧ SameRest s t) ∧
      (∀ a v, if 0 ≤ a ∧ a ≤ 0xFFFFF then
          ∃ t, hostAct (.writeByte a v) s = { state := t, error := none } ∧ hostReadByte a t = .ok v ∧
            SameMemoryOutside a 1 s t ∧ SameRegsExcept [] s t ∧ t.regF = s.regF ∧ SameRest s t
        else hostAct (.writeByte a v) s = { state := s, error := some (.addressRange a) } ∧
          hostReadByte a s = .error (.addressRange a)) ∧
      (∀ a w, if 0 ≤ a ∧ a + 2 ≤ 0xFFFFF then
          ∃ t, hostAct (.writeWord a w) s = { state := t, error := none } ∧ hostReadWord a t = .ok w ∧
            SameMemoryOutside a 3 s t ∧ SameRegsExcept [] s t ∧ t.regF = s.regF ∧ SameRest s t
        else hostAct (.writeWord a w) s = { state := s, error := some (.addressRange a) } ∧
          hostReadWord a s = .error (.addressRange a)) ∧
      (∀ a f, if 0 ≤ a ∧ a + 5 ≤ 0xFFFFF then
          ∃ t, hostAct (.writeFloat a f) s = { state := t, error := none } ∧ hostReadFloat a t = .ok f ∧
            SameMemoryOutside a 6 s t ∧ SameRegsExcept [] s t ∧ t.regF = s.regF ∧ SameRest s t
        else hostAct (.writeFloat a f) s = { state := s, error := some (.addressRange a) } ∧
          hostReadFloat a s = .error (.addressRange a)) ∧
      (∀ d dev, ∃ t, hostAct (.replaceDevice d dev) s = { state := t, error := none } ∧ t.device d = dev ∧
        (∀ e, e ≠ d → t.device e = s.device e) ∧ SameRegsExcept [] s t ∧ t.regF = s.regF ∧ SameMemory s t)) ∧
    (∀ d, s.waiting = some d →
      (∀ r, hostReadReg r s = .error .busy) ∧ hostReadFloatReg s = .error .busy ∧
      (∀ a, hostReadByte a s = .error .busy ∧ hostReadWord a s = .error .busy ∧ hostReadFloat a s = .error .busy))
end

