-- ==== Sys2Proof/Laws/Bits.lean ====
section
/-! SUPPORT. The laws of values and byte views. -/

namespace Sys2Proof.Machine

theorem s24_eq_toInt (u : Word) : s24 u = u.toInt := by
  unfold s24
  rw [BitVec.toInt_eq_toNat_cond]
  have := u.isLt
  split <;> split <;> omega

theorem sext12_eq_toInt (v : BitVec 12) : sext12 v = v.toInt := by
  unfold sext12
  rw [BitVec.toInt_eq_toNat_cond]
  have := v.isLt
  split <;> split <;> omega

/-- The bits held of an integer are its residue modulo 2^24. -/
theorem trunc24_toNat (v : Int) : ((trunc24 v).toNat : Int) = v % 16777216 := by
  have := Int.emod_nonneg v (b := 16777216) (by decide)
  simp only [trunc24, BitVec.toNat_ofInt]
  omega

/-- Writing the signed reading of a word back gives the word. -/
@[simp] theorem trunc24_s24 (u : Word) : trunc24 (s24 u) = u := by
  rw [s24_eq_toInt]
  exact BitVec.ofInt_toInt

theorem s24_bounds (u : Word) : -8388608 ≤ s24 u ∧ s24 u ≤ 8388607 := by
  have := u.isLt
  unfold s24
  split <;> omega

/-- An integer in the signed range reads back as itself. -/
theorem s24_trunc24 {v : Int} (h1 : -8388608 ≤ v) (h2 : v ≤ 8388607) : s24 (trunc24 v) = v := by
  have h := trunc24_toNat v
  have := Int.emod_nonneg v (b := 16777216) (by decide)
  unfold s24
  split <;> omega

theorem lowByte_toNat (w : Word) : (lowByte w).toNat = w.toNat % 256 := by simp [lowByte]

/-- A word read from the bytes of a word is that word. -/
theorem wordOfBytes_bytesOfWord (w : Word) :
    wordOfBytes (BitVec.ofNat 8 (w.toNat / 65536)) (BitVec.ofNat 8 (w.toNat / 256)) (BitVec.ofNat 8 w.toNat) = w := by
  apply BitVec.eq_of_toNat_eq
  have := w.isLt
  simp only [wordOfBytes, BitVec.toNat_ofNat]
  omega

end Sys2Proof.Machine
end

