-- ==== Sys2Proof/Laws/Decode.lean ====
section
/-! SUPPORT. The laws of the decoder's fields and of classification. -/

namespace Sys2Proof

/-- The operand of a three-byte instruction is well formed, whatever the bytes. -/
theorem operand3_wellFormed (b1 b2 b3 : Byte) : (operand3 b1 b2 b3).wellFormed = true := by
  unfold operand3
  split
  · rfl
  · rename_i h
    have := b1.isLt
    simp only [isSic, bits, beq_iff_eq] at h
    simp only [Operand.wellFormed, Flags.selectsF3F4, extractFlags, bitAt, Bool.or_eq_true, beq_iff_eq]
    omega

/-- The operand of a four-byte instruction is well formed where the flags ask for a fourth byte. -/
theorem operand4_wellFormed {b1 b2 : Byte} (b3 b4 : Byte) (h : hasFourth b1 b2 = true) :
    (operand4 b1 b2 b3 b4).wellFormed = true := by
  have := b1.isLt
  simp only [hasFourth, isSic, bits, Bool.and_eq_true, Bool.not_eq_true', beq_eq_false_iff_ne] at h
  simp only [operand4, Operand.wellFormed, Flags.selectsF3F4, extractFlags, bitAt, Bool.or_eq_true, beq_iff_eq]
  omega

/-- What a lookup finds is in the list. -/
theorem mem_of_lookup {α β : Type} [BEq α] [LawfulBEq α] {l : List (α × β)} {a : α} {b : β}
    (h : l.lookup a = some b) : (a, b) ∈ l := by
  induction l with
  | nil => simp at h
  | cons p rest ih =>
    obtain ⟨c, d⟩ := p
    by_cases hc : a == c
    · simp only [List.lookup_cons, hc] at h
      simp only [Option.some.injEq] at h
      simp [eq_of_beq hc, h]
    · simp only [List.lookup_cons, hc] at h
      exact List.mem_cons_of_mem _ (ih h)

/-- What a row of the opcode map makes is well formed as soon as its operand is. -/
def OpcodeRow.sound : OpcodeRow → Prop
  | .f1 i => i.wellFormed = true
  | .f2 mk => ∀ r1 r2, (mk r1 r2).wellFormed = true
  | .f34 mk => ∀ m, (mk m).wellFormed = m.wellFormed

/-- Every row of the opcode map is sound. -/
theorem classify_sound {b1 : Byte} {row : OpcodeRow} (h : classify b1 = some row) : row.sound := by
  have h8 : ∀ p ∈ table8, p.2.sound := by simp [table8, OpcodeRow.sound, Instr.wellFormed]
  have h6 : ∀ p ∈ table6, p.2.sound := by simp [table6, OpcodeRow.sound, Instr.wellFormed]
  unfold classify at h
  split at h
  · rename_i r hr
    cases h
    exact h8 _ (mem_of_lookup hr)
  · exact h6 _ (mem_of_lookup h)

/-- The encoding of an F3_F4 instruction has the length of its layout. -/
theorem encodeF34_length (op : Nat) (m : Operand) : (encodeF34 op m).length = operandLength m := by
  cases m <;> rfl

end Sys2Proof
end

