-- ==== Sys2Proof/Laws/Sparse.lean ====
section
/-! SUPPORT. The laws of sparse arrays: read after write, and every write keeps the canonical form. -/

namespace Sys2Proof.Machine

variable {α : Type} (dflt : Nat → α)

theorem sparseGet_erase (k j : Nat) (l : List (Nat × α)) :
    sparseGet dflt (sparseErase k l) j = if j = k then dflt j else sparseGet dflt l j := by
  induction l with
  | nil => simp [sparseErase, sparseGet]
  | cons p rest ih =>
    obtain ⟨i, v⟩ := p
    by_cases h : i = k
    · by_cases hj : j = k
      · simpa [sparseErase, h, hj] using ih
      · simp [sparseErase, sparseGet, h, ih, hj, Ne.symm hj]
    · by_cases hj : j = k
      · simp only [sparseErase, h, if_false, sparseGet, hj, if_true]
        simpa [hj] using ih
      · simp only [sparseErase, h, if_false, sparseGet, ih, hj]

theorem sparseGet_insert_self (k : Nat) (v : α) (l : List (Nat × α)) (h : ∀ w, (k, w) ∉ l) :
    sparseGet dflt (sparseInsert k v l) k = v := by
  induction l with
  | nil => simp [sparseInsert, sparseGet]
  | cons p rest ih =>
    obtain ⟨i, w⟩ := p
    have hi : i ≠ k := fun e => h w (by simp [e])
    by_cases hk : k < i
    · simp [sparseInsert, hk, sparseGet]
    · simp only [sparseInsert, hk, if_false, sparseGet, hi]
      exact ih fun u hu => h u (by simp [hu])

theorem sparseGet_insert_ne {k j : Nat} (hj : j ≠ k) (v : α) (l : List (Nat × α)) :
    sparseGet dflt (sparseInsert k v l) j = sparseGet dflt l j := by
  induction l with
  | nil => simp [sparseInsert, sparseGet, Ne.symm hj]
  | cons p rest ih =>
    obtain ⟨i, w⟩ := p
    by_cases hk : k < i
    · simp [sparseInsert, hk, sparseGet, Ne.symm hj]
    · simp only [sparseInsert, hk, if_false, sparseGet, ih]

theorem notMem_sparseErase (k : Nat) (w : α) (l : List (Nat × α)) : (k, w) ∉ sparseErase k l := by
  induction l with
  | nil => simp [sparseErase]
  | cons p rest ih =>
    obtain ⟨i, v⟩ := p
    by_cases h : i = k
    · simpa [sparseErase, h] using ih
    · simp [sparseErase, h, ih, Ne.symm h]

/-- Read after write, for every list: the key written reads as the value, every other key as before. -/
theorem sparseGet_put [DecidableEq α] (l : List (Nat × α)) (k j : Nat) (v : α) :
    sparseGet dflt (sparsePut dflt l k v) j = if j = k then v else sparseGet dflt l j := by
  unfold sparsePut
  split
  · rename_i hv
    rw [sparseGet_erase]
    split
    · rename_i hj; rw [hj, hv]
    · rfl
  · split
    · rename_i hj
      rw [hj, sparseGet_insert_self _ _ _ _ fun w => notMem_sparseErase k w l]
    · rename_i hj
      rw [sparseGet_insert_ne _ hj, sparseGet_erase, if_neg hj]

theorem keysAbove_erase {i : Nat} (k : Nat) {l : List (Nat × α)} (h : keysAbove i l = true) :
    keysAbove i (sparseErase k l) = true := by
  induction l with
  | nil => rfl
  | cons p rest ih =>
    obtain ⟨j, v⟩ := p
    simp only [keysAbove, Bool.and_eq_true] at h
    by_cases hj : j = k
    · simpa [sparseErase, hj] using ih h.2
    · simpa [sparseErase, hj, keysAbove] using ⟨by simpa using h.1, ih h.2⟩

theorem keysAbove_insert {i k : Nat} (v : α) {l : List (Nat × α)} (hk : i < k) (h : keysAbove i l = true) :
    keysAbove i (sparseInsert k v l) = true := by
  induction l with
  | nil => simp [sparseInsert, keysAbove, hk]
  | cons p rest ih =>
    obtain ⟨j, w⟩ := p
    simp only [keysAbove, Bool.and_eq_true, decide_eq_true_eq] at h
    by_cases hj : k < j
    · simp [sparseInsert, hj, keysAbove, hk, h.1, h.2]
    · simp [sparseInsert, hj, keysAbove, h.1, ih h.2]

theorem keysAbove_of_le {i j : Nat} (hij : i ≤ j) {l : List (Nat × α)} (h : keysAbove j l = true) :
    keysAbove i l = true := by
  induction l with
  | nil => rfl
  | cons p rest ih =>
    obtain ⟨m, w⟩ := p
    simp only [keysAbove, Bool.and_eq_true, decide_eq_true_eq] at h ⊢
    exact ⟨by omega, ih h.2⟩

theorem sparseWf_erase [DecidableEq α] {bound : Nat} (k : Nat) {l : List (Nat × α)}
    (h : sparseWf dflt bound l = true) : sparseWf dflt bound (sparseErase k l) = true := by
  induction l with
  | nil => rfl
  | cons p rest ih =>
    obtain ⟨j, v⟩ := p
    simp only [sparseWf, Bool.and_eq_true] at h
    by_cases hj : j = k
    · simpa [sparseErase, hj] using ih h.2
    · simp only [sparseErase, hj, if_false, sparseWf, Bool.and_eq_true]
      exact ⟨⟨h.1.1, keysAbove_erase k h.1.2⟩, ih h.2⟩

theorem sparseWf_insert [DecidableEq α] {bound k : Nat} {v : α} (hk : k < bound) (hv : v ≠ dflt k)
    {l : List (Nat × α)} (hn : ∀ w, (k, w) ∉ l) (h : sparseWf dflt bound l = true) :
    sparseWf dflt bound (sparseInsert k v l) = true := by
  induction l with
  | nil => simp [sparseInsert, sparseWf, keysAbove, hk, hv]
  | cons p rest ih =>
    obtain ⟨j, w⟩ := p
    have hne : j ≠ k := fun e => hn w (by simp [e])
    have h' := h
    simp only [sparseWf, Bool.and_eq_true, decide_eq_true_eq] at h
    by_cases hj : k < j
    · simp only [sparseInsert, hj, if_true]
      rw [sparseWf, h']
      simp [hk, hv, keysAbove, hj, keysAbove_of_le (Nat.le_of_lt hj) h.1.2]
    · simp only [sparseInsert, hj, if_false, sparseWf, Bool.and_eq_true, decide_eq_true_eq]
      refine ⟨⟨h.1.1, keysAbove_insert v (by omega) h.1.2⟩, ih (fun u hu => hn u (by simp [hu])) h.2⟩

/-- A write below the bound keeps the canonical form. -/
theorem sparseWf_put [DecidableEq α] {bound k : Nat} (v : α) (hk : k < bound) {l : List (Nat × α)}
    (h : sparseWf dflt bound l = true) : sparseWf dflt bound (sparsePut dflt l k v) = true := by
  unfold sparsePut
  split
  · exact sparseWf_erase dflt k h
  · rename_i hv
    exact sparseWf_insert dflt hk hv (fun w => notMem_sparseErase k w l) (sparseWf_erase dflt k h)

end Sys2Proof.Machine
end

