-- ==== Sys2Proof/Laws/State.lean ====
section
/-! SUPPORT. One lemma per field per update of the state, so that no proof unfolds a record update. -/

namespace Sys2Proof.Machine

/-- A register after a register was set. -/
@[simp] theorem State.get_set (s : State) (r q : Reg) (w : Word) : (s.set r w).get q = if q = r then w else s.get q := by
  cases r <;> cases q <;> rfl

theorem State.get_set_self (s : State) (r : Reg) (w : Word) : (s.set r w).get r = w := by simp

theorem State.get_set_ne (s : State) {r q : Reg} (w : Word) (h : q ≠ r) : (s.set r w).get q = s.get q := by simp [h]

/-- A register after a register was written. -/
@[simp] theorem State.get_write (s : State) (r q : Reg) (v : Int) :
    (s.write r v).get q = if q = r then trunc24 v else s.get q := by simp [State.write]

/-- The signed reading of a register after a register was set. -/
@[simp] theorem State.read_set (s : State) (r q : Reg) (w : Word) :
    (s.set r w).read q = if q = r then s24 w else s.read q := by
  cases r <;> cases q <;> rfl

/-- The signed reading of a register after a register was written. -/
@[simp] theorem State.read_write (s : State) (r q : Reg) (v : Int) :
    (s.write r v).read q = if q = r then s24 (trunc24 v) else s.read q := by simp [State.write]

/-- Setting a register to what it holds changes nothing. -/
@[simp] theorem State.set_get (s : State) (r : Reg) : s.set r (s.get r) = s := by cases r <;> rfl

/-- The later of two settings of one register counts. -/
@[simp] theorem State.set_set (s : State) (r : Reg) (w v : Word) : (s.set r w).set r v = s.set r v := by cases r <;> rfl

@[simp] theorem State.setFault_setFault (s : State) (j k : Option Fault) : (s.setFault j).setFault k = s.setFault k := rfl

@[simp] theorem State.byteAt_set (s : State) (r : Reg) (w : Word) (a : Nat) : (s.set r w).byteAt a = s.byteAt a := by cases r <;> rfl
@[simp] theorem State.regF_set (s : State) (r : Reg) (w : Word) : (s.set r w).regF = s.regF := by cases r <;> rfl
@[simp] theorem State.mem_set (s : State) (r : Reg) (w : Word) : (s.set r w).mem = s.mem := by cases r <;> rfl
@[simp] theorem State.devices_set (s : State) (r : Reg) (w : Word) : (s.set r w).devices = s.devices := by cases r <;> rfl
@[simp] theorem State.fault_set (s : State) (r : Reg) (w : Word) : (s.set r w).fault = s.fault := by cases r <;> rfl
@[simp] theorem State.waiting_set (s : State) (r : Reg) (w : Word) : (s.set r w).waiting = s.waiting := by cases r <;> rfl
@[simp] theorem State.run_set (s : State) (r : Reg) (w : Word) : (s.set r w).run = s.run := by cases r <;> rfl
@[simp] theorem State.speed_set (s : State) (r : Reg) (w : Word) : (s.set r w).speed = s.speed := by cases r <;> rfl
@[simp] theorem State.readAnswers_set (s : State) (r : Reg) (w : Word) : (s.set r w).readAnswers = s.readAnswers := by cases r <;> rfl
@[simp] theorem State.writeAnswers_set (s : State) (r : Reg) (w : Word) : (s.set r w).writeAnswers = s.writeAnswers := by cases r <;> rfl
@[simp] theorem State.testAnswers_set (s : State) (r : Reg) (w : Word) : (s.set r w).testAnswers = s.testAnswers := by cases r <;> rfl
@[simp] theorem State.envTime_set (s : State) (r : Reg) (w : Word) : (s.set r w).envTime = s.envTime := by cases r <;> rfl
@[simp] theorem State.device_set (s : State) (r : Reg) (w : Word) (d : Byte) : (s.set r w).device d = s.device d := by cases r <;> rfl
@[simp] theorem State.byteAt_write (s : State) (r : Reg) (v : Int) (a : Nat) : (s.write r v).byteAt a = s.byteAt a := by cases r <;> rfl
@[simp] theorem State.regF_write (s : State) (r : Reg) (v : Int) : (s.write r v).regF = s.regF := by cases r <;> rfl
@[simp] theorem State.mem_write (s : State) (r : Reg) (v : Int) : (s.write r v).mem = s.mem := by cases r <;> rfl
@[simp] theorem State.devices_write (s : State) (r : Reg) (v : Int) : (s.write r v).devices = s.devices := by cases r <;> rfl
@[simp] theorem State.fault_write (s : State) (r : Reg) (v : Int) : (s.write r v).fault = s.fault := by cases r <;> rfl
@[simp] theorem State.waiting_write (s : State) (r : Reg) (v : Int) : (s.write r v).waiting = s.waiting := by cases r <;> rfl
@[simp] theorem State.run_write (s : State) (r : Reg) (v : Int) : (s.write r v).run = s.run := by cases r <;> rfl
@[simp] theorem State.speed_write (s : State) (r : Reg) (v : Int) : (s.write r v).speed = s.speed := by cases r <;> rfl
@[simp] theorem State.readAnswers_write (s : State) (r : Reg) (v : Int) : (s.write r v).readAnswers = s.readAnswers := by cases r <;> rfl
@[simp] theorem State.writeAnswers_write (s : State) (r : Reg) (v : Int) : (s.write r v).writeAnswers = s.writeAnswers := by cases r <;> rfl
@[simp] theorem State.testAnswers_write (s : State) (r : Reg) (v : Int) : (s.write r v).testAnswers = s.testAnswers := by cases r <;> rfl
@[simp] theorem State.envTime_write (s : State) (r : Reg) (v : Int) : (s.write r v).envTime = s.envTime := by cases r <;> rfl
@[simp] theorem State.device_write (s : State) (r : Reg) (v : Int) (d : Byte) : (s.write r v).device d = s.device d := by cases r <;> rfl
@[simp] theorem State.get_setF (s : State) (f : FReg) (r : Reg) : (s.setF f).get r = s.get r := by cases r <;> rfl
@[simp] theorem State.read_setF (s : State) (f : FReg) (r : Reg) : (s.setF f).read r = s.read r := by cases r <;> rfl
@[simp] theorem State.byteAt_setF (s : State) (f : FReg) (a : Nat) : (s.setF f).byteAt a = s.byteAt a := rfl
@[simp] theorem State.regF_setF (s : State) (f : FReg) : (s.setF f).regF = f := rfl
@[simp] theorem State.mem_setF (s : State) (f : FReg) : (s.setF f).mem = s.mem := rfl
@[simp] theorem State.devices_setF (s : State) (f : FReg) : (s.setF f).devices = s.devices := rfl
@[simp] theorem State.fault_setF (s : State) (f : FReg) : (s.setF f).fault = s.fault := rfl
@[simp] theorem State.waiting_setF (s : State) (f : FReg) : (s.setF f).waiting = s.waiting := rfl
@[simp] theorem State.run_setF (s : State) (f : FReg) : (s.setF f).run = s.run := rfl
@[simp] theorem State.speed_setF (s : State) (f : FReg) : (s.setF f).speed = s.speed := rfl
@[simp] theorem State.readAnswers_setF (s : State) (f : FReg) : (s.setF f).readAnswers = s.readAnswers := rfl
@[simp] theorem State.writeAnswers_setF (s : State) (f : FReg) : (s.setF f).writeAnswers = s.writeAnswers := rfl
@[simp] theorem State.testAnswers_setF (s : State) (f : FReg) : (s.setF f).testAnswers = s.testAnswers := rfl
@[simp] theorem State.envTime_setF (s : State) (f : FReg) : (s.setF f).envTime = s.envTime := rfl
@[simp] theorem State.device_setF (s : State) (f : FReg) (d : Byte) : (s.setF f).device d = s.device d := rfl
@[simp] theorem State.get_setMem (s : State) (m : Memory) (r : Reg) : (s.setMem m).get r = s.get r := by cases r <;> rfl
@[simp] theorem State.read_setMem (s : State) (m : Memory) (r : Reg) : (s.setMem m).read r = s.read r := by cases r <;> rfl
@[simp] theorem State.regF_setMem (s : State) (m : Memory) : (s.setMem m).regF = s.regF := rfl
@[simp] theorem State.mem_setMem (s : State) (m : Memory) : (s.setMem m).mem = m := rfl
@[simp] theorem State.devices_setMem (s : State) (m : Memory) : (s.setMem m).devices = s.devices := rfl
@[simp] theorem State.fault_setMem (s : State) (m : Memory) : (s.setMem m).fault = s.fault := rfl
@[simp] theorem State.waiting_setMem (s : State) (m : Memory) : (s.setMem m).waiting = s.waiting := rfl
@[simp] theorem State.run_setMem (s : State) (m : Memory) : (s.setMem m).run = s.run := rfl
@[simp] theorem State.speed_setMem (s : State) (m : Memory) : (s.setMem m).speed = s.speed := rfl
@[simp] theorem State.readAnswers_setMem (s : State) (m : Memory) : (s.setMem m).readAnswers = s.readAnswers := rfl
@[simp] theorem State.writeAnswers_setMem (s : State) (m : Memory) : (s.setMem m).writeAnswers = s.writeAnswers := rfl
@[simp] theorem State.testAnswers_setMem (s : State) (m : Memory) : (s.setMem m).testAnswers = s.testAnswers := rfl
@[simp] theorem State.envTime_setMem (s : State) (m : Memory) : (s.setMem m).envTime = s.envTime := rfl
@[simp] theorem State.device_setMem (s : State) (m : Memory) (d : Byte) : (s.setMem m).device d = s.device d := rfl
@[simp] theorem State.get_setFault (s : State) (k : Option Fault) (r : Reg) : (s.setFault k).get r = s.get r := by cases r <;> rfl
@[simp] theorem State.read_setFault (s : State) (k : Option Fault) (r : Reg) : (s.setFault k).read r = s.read r := by cases r <;> rfl
@[simp] theorem State.byteAt_setFault (s : State) (k : Option Fault) (a : Nat) : (s.setFault k).byteAt a = s.byteAt a := rfl
@[simp] theorem State.regF_setFault (s : State) (k : Option Fault) : (s.setFault k).regF = s.regF := rfl
@[simp] theorem State.mem_setFault (s : State) (k : Option Fault) : (s.setFault k).mem = s.mem := rfl
@[simp] theorem State.devices_setFault (s : State) (k : Option Fault) : (s.setFault k).devices = s.devices := rfl
@[simp] theorem State.fault_setFault (s : State) (k : Option Fault) : (s.setFault k).fault = k := rfl
@[simp] theorem State.waiting_setFault (s : State) (k : Option Fault) : (s.setFault k).waiting = s.waiting := rfl
@[simp] theorem State.run_setFault (s : State) (k : Option Fault) : (s.setFault k).run = s.run := rfl
@[simp] theorem State.speed_setFault (s : State) (k : Option Fault) : (s.setFault k).speed = s.speed := rfl
@[simp] theorem State.readAnswers_setFault (s : State) (k : Option Fault) : (s.setFault k).readAnswers = s.readAnswers := rfl
@[simp] theorem State.writeAnswers_setFault (s : State) (k : Option Fault) : (s.setFault k).writeAnswers = s.writeAnswers := rfl
@[simp] theorem State.testAnswers_setFault (s : State) (k : Option Fault) : (s.setFault k).testAnswers = s.testAnswers := rfl
@[simp] theorem State.envTime_setFault (s : State) (k : Option Fault) : (s.setFault k).envTime = s.envTime := rfl
@[simp] theorem State.device_setFault (s : State) (k : Option Fault) (d : Byte) : (s.setFault k).device d = s.device d := rfl
@[simp] theorem State.get_setWaiting (s : State) (w : Option Byte) (r : Reg) : (s.setWaiting w).get r = s.get r := by cases r <;> rfl
@[simp] theorem State.read_setWaiting (s : State) (w : Option Byte) (r : Reg) : (s.setWaiting w).read r = s.read r := by cases r <;> rfl
@[simp] theorem State.byteAt_setWaiting (s : State) (w : Option Byte) (a : Nat) : (s.setWaiting w).byteAt a = s.byteAt a := rfl
@[simp] theorem State.regF_setWaiting (s : State) (w : Option Byte) : (s.setWaiting w).regF = s.regF := rfl
@[simp] theorem State.mem_setWaiting (s : State) (w : Option Byte) : (s.setWaiting w).mem = s.mem := rfl
@[simp] theorem State.devices_setWaiting (s : State) (w : Option Byte) : (s.setWaiting w).devices = s.devices := rfl
@[simp] theorem State.fault_setWaiting (s : State) (w : Option Byte) : (s.setWaiting w).fault = s.fault := rfl
@[simp] theorem State.waiting_setWaiting (s : State) (w : Option Byte) : (s.setWaiting w).waiting = w := rfl
@[simp] theorem State.run_setWaiting (s : State) (w : Option Byte) : (s.setWaiting w).run = s.run := rfl
@[simp] theorem State.speed_setWaiting (s : State) (w : Option Byte) : (s.setWaiting w).speed = s.speed := rfl
@[simp] theorem State.readAnswers_setWaiting (s : State) (w : Option Byte) : (s.setWaiting w).readAnswers = s.readAnswers := rfl
@[simp] theorem State.writeAnswers_setWaiting (s : State) (w : Option Byte) : (s.setWaiting w).writeAnswers = s.writeAnswers := rfl
@[simp] theorem State.testAnswers_setWaiting (s : State) (w : Option Byte) : (s.setWaiting w).testAnswers = s.testAnswers := rfl
@[simp] theorem State.envTime_setWaiting (s : State) (w : Option Byte) : (s.setWaiting w).envTime = s.envTime := rfl
@[simp] theorem State.device_setWaiting (s : State) (w : Option Byte) (d : Byte) : (s.setWaiting w).device d = s.device d := rfl
@[simp] theorem State.get_setDevice (s : State) (d : Byte) (dev : Device) (r : Reg) : (s.setDevice d dev).get r = s.get r := by cases r <;> rfl
@[simp] theorem State.read_setDevice (s : State) (d : Byte) (dev : Device) (r : Reg) : (s.setDevice d dev).read r = s.read r := by cases r <;> rfl
@[simp] theorem State.byteAt_setDevice (s : State) (d : Byte) (dev : Device) (a : Nat) : (s.setDevice d dev).byteAt a = s.byteAt a := rfl
@[simp] theorem State.regF_setDevice (s : State) (d : Byte) (dev : Device) : (s.setDevice d dev).regF = s.regF := rfl
@[simp] theorem State.mem_setDevice (s : State) (d : Byte) (dev : Device) : (s.setDevice d dev).mem = s.mem := rfl
@[simp] theorem State.devices_setDevice (s : State) (d : Byte) (dev : Device) : (s.setDevice d dev).devices = sparsePut standardDevice s.devices d.toNat dev := rfl
@[simp] theorem State.fault_setDevice (s : State) (d : Byte) (dev : Device) : (s.setDevice d dev).fault = s.fault := rfl
@[simp] theorem State.waiting_setDevice (s : State) (d : Byte) (dev : Device) : (s.setDevice d dev).waiting = s.waiting := rfl
@[simp] theorem State.run_setDevice (s : State) (d : Byte) (dev : Device) : (s.setDevice d dev).run = s.run := rfl
@[simp] theorem State.speed_setDevice (s : State) (d : Byte) (dev : Device) : (s.setDevice d dev).speed = s.speed := rfl
@[simp] theorem State.readAnswers_setDevice (s : State) (d : Byte) (dev : Device) : (s.setDevice d dev).readAnswers = s.readAnswers := rfl
@[simp] theorem State.writeAnswers_setDevice (s : State) (d : Byte) (dev : Device) : (s.setDevice d dev).writeAnswers = s.writeAnswers := rfl
@[simp] theorem State.testAnswers_setDevice (s : State) (d : Byte) (dev : Device) : (s.setDevice d dev).testAnswers = s.testAnswers := rfl
@[simp] theorem State.envTime_setDevice (s : State) (d : Byte) (dev : Device) : (s.setDevice d dev).envTime = s.envTime := rfl
@[simp] theorem State.get_readAnswered (s : State) (r : Reg) : (s.readAnswered).get r = s.get r := by cases r <;> rfl
@[simp] theorem State.read_readAnswered (s : State) (r : Reg) : (s.readAnswered).read r = s.read r := by cases r <;> rfl
@[simp] theorem State.byteAt_readAnswered (s : State) (a : Nat) : (s.readAnswered).byteAt a = s.byteAt a := rfl
@[simp] theorem State.regF_readAnswered (s : State) : (s.readAnswered).regF = s.regF := rfl
@[simp] theorem State.mem_readAnswered (s : State) : (s.readAnswered).mem = s.mem := rfl
@[simp] theorem State.devices_readAnswered (s : State) : (s.readAnswered).devices = s.devices := rfl
@[simp] theorem State.fault_readAnswered (s : State) : (s.readAnswered).fault = s.fault := rfl
@[simp] theorem State.waiting_readAnswered (s : State) : (s.readAnswered).waiting = s.waiting := rfl
@[simp] theorem State.run_readAnswered (s : State) : (s.readAnswered).run = s.run := rfl
@[simp] theorem State.speed_readAnswered (s : State) : (s.readAnswered).speed = s.speed := rfl
@[simp] theorem State.readAnswers_readAnswered (s : State) : (s.readAnswered).readAnswers = s.readAnswers.tail := rfl
@[simp] theorem State.writeAnswers_readAnswered (s : State) : (s.readAnswered).writeAnswers = s.writeAnswers := rfl
@[simp] theorem State.testAnswers_readAnswered (s : State) : (s.readAnswered).testAnswers = s.testAnswers := rfl
@[simp] theorem State.envTime_readAnswered (s : State) : (s.readAnswered).envTime = s.envTime + 1 := rfl
@[simp] theorem State.device_readAnswered (s : State) (d : Byte) : (s.readAnswered).device d = s.device d := rfl
@[simp] theorem State.get_writeAnswered (s : State) (r : Reg) : (s.writeAnswered).get r = s.get r := by cases r <;> rfl
@[simp] theorem State.read_writeAnswered (s : State) (r : Reg) : (s.writeAnswered).read r = s.read r := by cases r <;> rfl
@[simp] theorem State.byteAt_writeAnswered (s : State) (a : Nat) : (s.writeAnswered).byteAt a = s.byteAt a := rfl
@[simp] theorem State.regF_writeAnswered (s : State) : (s.writeAnswered).regF = s.regF := rfl
@[simp] theorem State.mem_writeAnswered (s : State) : (s.writeAnswered).mem = s.mem := rfl
@[simp] theorem State.devices_writeAnswered (s : State) : (s.writeAnswered).devices = s.devices := rfl
@[simp] theorem State.fault_writeAnswered (s : State) : (s.writeAnswered).fault = s.fault := rfl
@[simp] theorem State.waiting_writeAnswered (s : State) : (s.writeAnswered).waiting = s.waiting := rfl
@[simp] theorem State.run_writeAnswered (s : State) : (s.writeAnswered).run = s.run := rfl
@[simp] theorem State.speed_writeAnswered (s : State) : (s.writeAnswered).speed = s.speed := rfl
@[simp] theorem State.readAnswers_writeAnswered (s : State) : (s.writeAnswered).readAnswers = s.readAnswers := rfl
@[simp] theorem State.writeAnswers_writeAnswered (s : State) : (s.writeAnswered).writeAnswers = s.writeAnswers.tail := rfl
@[simp] theorem State.testAnswers_writeAnswered (s : State) : (s.writeAnswered).testAnswers = s.testAnswers := rfl
@[simp] theorem State.envTime_writeAnswered (s : State) : (s.writeAnswered).envTime = s.envTime + 1 := rfl
@[simp] theorem State.device_writeAnswered (s : State) (d : Byte) : (s.writeAnswered).device d = s.device d := rfl
@[simp] theorem State.get_testAnswered (s : State) (r : Reg) : (s.testAnswered).get r = s.get r := by cases r <;> rfl
@[simp] theorem State.read_testAnswered (s : State) (r : Reg) : (s.testAnswered).read r = s.read r := by cases r <;> rfl
@[simp] theorem State.byteAt_testAnswered (s : State) (a : Nat) : (s.testAnswered).byteAt a = s.byteAt a := rfl
@[simp] theorem State.regF_testAnswered (s : State) : (s.testAnswered).regF = s.regF := rfl
@[simp] theorem State.mem_testAnswered (s : State) : (s.testAnswered).mem = s.mem := rfl
@[simp] theorem State.devices_testAnswered (s : State) : (s.testAnswered).devices = s.devices := rfl
@[simp] theorem State.fault_testAnswered (s : State) : (s.testAnswered).fault = s.fault := rfl
@[simp] theorem State.waiting_testAnswered (s : State) : (s.testAnswered).waiting = s.waiting := rfl
@[simp] theorem State.run_testAnswered (s : State) : (s.testAnswered).run = s.run := rfl
@[simp] theorem State.speed_testAnswered (s : State) : (s.testAnswered).speed = s.speed := rfl
@[simp] theorem State.readAnswers_testAnswered (s : State) : (s.testAnswered).readAnswers = s.readAnswers := rfl
@[simp] theorem State.writeAnswers_testAnswered (s : State) : (s.testAnswered).writeAnswers = s.writeAnswers := rfl
@[simp] theorem State.testAnswers_testAnswered (s : State) : (s.testAnswered).testAnswers = s.testAnswers.tail := rfl
@[simp] theorem State.envTime_testAnswered (s : State) : (s.testAnswered).envTime = s.envTime + 1 := rfl
@[simp] theorem State.device_testAnswered (s : State) (d : Byte) : (s.testAnswered).device d = s.device d := rfl

/-- The byte at an address after memory was replaced. -/
@[simp] theorem State.byteAt_setMem (s : State) (m : Memory) (a : Nat) : (s.setMem m).byteAt a = m.read a := rfl

/-- Two states with the same registers and fields are equal. -/
theorem State.ext_get {s t : State} (hr : ∀ r, t.get r = s.get r) (hf : t.regF = s.regF) (hm : t.mem = s.mem)
    (hd : t.devices = s.devices) (hk : t.fault = s.fault) (hw : t.waiting = s.waiting) (hrun : t.run = s.run)
    (hsp : t.speed = s.speed) (h1 : t.readAnswers = s.readAnswers) (h2 : t.writeAnswers = s.writeAnswers)
    (h3 : t.testAnswers = s.testAnswers) (h4 : t.envTime = s.envTime) : t = s := by
  have ha := hr .a
  have hx := hr .x
  have hl := hr .l
  have hb := hr .b
  have hs := hr .s
  have ht := hr .t
  have hp := hr .pc
  have hsw := hr .sw
  cases s
  cases t
  simp_all [State.get]

end Sys2Proof.Machine
end

