-- ==== Sys2Proof/Laws/Memory.lean ====
section
/-! SUPPORT. The laws of memory: read after write, the canonical form, and what each access can answer. -/

namespace Sys2Proof.Machine

theorem Memory.read_write (m : Memory) (a j : Nat) (v : Byte) :
    (m.write a v).read j = if j = a then v else m.read j := sparseGet_put _ m a j v

/-- A write below 2^20 keeps the canonical form. -/
theorem Memory.wf_write {m : Memory} (h : m.wf = true) {a : Nat} (ha : a < Config.memorySize) (v : Byte) :
    (m.write a v).wf = true := sparseWf_put _ v ha h

/-- What a byte reads as after bytes were written: the byte written there, else what it read as before. -/
theorem Memory.read_writeBytes (m : Memory) (a j : Nat) (bs : List Byte) :
    (m.writeBytes a bs).read j = if h : a ≤ j ∧ j - a < bs.length then bs[j - a]'h.2 else m.read j := by
  induction bs generalizing m a with
  | nil => simp [Memory.writeBytes]
  | cons v rest ih =>
    rw [Memory.writeBytes, ih]
    by_cases h1 : a + 1 ≤ j ∧ j - (a + 1) < rest.length
    · have h2 : a ≤ j ∧ j - a < (v :: rest).length := ⟨by omega, by simp; omega⟩
      rw [dif_pos h1, dif_pos h2]
      have : j - a = (j - (a + 1)) + 1 := by omega
      simp only [this, List.getElem_cons_succ]
    · rw [dif_neg h1, Memory.read_write]
      by_cases h3 : j = a
      · subst h3; simp
      · rw [if_neg h3, dif_neg]
        rintro ⟨h4, h5⟩
        simp at h5
        exact h1 ⟨by omega, by omega⟩

theorem Memory.wf_writeBytes {m : Memory} (h : m.wf = true) {a : Nat} (bs : List Byte)
    (ha : a + bs.length ≤ Config.memorySize) : (m.writeBytes a bs).wf = true := by
  induction bs generalizing m a with
  | nil => exact h
  | cons v rest ih =>
    simp at ha
    exact ih (Memory.wf_write h (by omega) v) (by omega)

/-- The range rule as an inequality. -/
theorem inRange_iff (a : Int) (n : Nat) : inRange a n = true ↔ 0 ≤ a ∧ a + (n : Int) ≤ (Config.memorySize : Int) := by
  simp [inRange]

/-- All a store can do: an out-of-range access faults with its address; else exactly the bytes are written. -/
theorem memWrite_cases (s : State) (a : Int) (bs : List Byte) :
    (inRange a bs.length = false ∧ memWrite s a bs = .error (.addressRange a)) ∨
      (inRange a bs.length = true ∧ memWrite s a bs = .ok (s.setMem (s.mem.writeBytes a.toNat bs))) := by
  cases h : inRange a bs.length <;> simp [memWrite, h]

theorem memRead1_cases (s : State) (a : Int) :
    (inRange a 1 = false ∧ memRead1 s a = .error (.addressRange a)) ∨
      (inRange a 1 = true ∧ memRead1 s a = .ok (s.byteAt a.toNat)) := by
  cases h : inRange a 1 <;> simp [memRead1, h]

theorem memRead3_cases (s : State) (a : Int) :
    (inRange a 3 = false ∧ memRead3 s a = .error (.addressRange a)) ∨
      (inRange a 3 = true ∧ memRead3 s a =
        .ok (wordOfBytes (s.byteAt a.toNat) (s.byteAt (a.toNat + 1)) (s.byteAt (a.toNat + 2)))) := by
  cases h : inRange a 3 <;> simp [memRead3, h]

theorem memRead6_cases (s : State) (a : Int) :
    (inRange a 6 = false ∧ memRead6 s a = .error (.addressRange a)) ∨
      (inRange a 6 = true ∧ memRead6 s a =
        .ok ⟨s.byteAt a.toNat, s.byteAt (a.toNat + 1), s.byteAt (a.toNat + 2), s.byteAt (a.toNat + 3),
          s.byteAt (a.toNat + 4), s.byteAt (a.toNat + 5)⟩) := by
  cases h : inRange a 6 <;> simp [memRead6, h]

/-- A store that is made keeps the canonical form of memory. -/
theorem memWrite_wf {s t : State} {a : Int} {bs : List Byte} (h : memWrite s a bs = .ok t) (hs : s.mem.wf = true) :
    t.mem.wf = true := by
  rcases memWrite_cases s a bs with ⟨_, he⟩ | ⟨hr, he⟩
  · rw [he] at h; cases h
  · rw [he] at h
    cases h
    rw [inRange_iff] at hr
    exact Memory.wf_writeBytes hs bs (by omega)

/-- The bytes stored and the bytes left alone by a store that is made. -/
theorem memWrite_byteAt {s t : State} {a : Int} {bs : List Byte} (h : memWrite s a bs = .ok t) (j : Nat) :
    t.byteAt j = if hj : a ≤ (j : Int) ∧ j - a.toNat < bs.length then bs[j - a.toNat]'hj.2 else s.byteAt j := by
  rcases memWrite_cases s a bs with ⟨_, he⟩ | ⟨hr, he⟩
  · rw [he] at h; cases h
  · rw [he] at h
    cases h
    rw [inRange_iff] at hr
    have : (a ≤ (j : Int)) ↔ a.toNat ≤ j := by omega
    simp only [State.byteAt_setMem, Memory.read_writeBytes, this]
    rfl

/-- A store that is made changes memory only. -/
theorem memWrite_eq {s t : State} {a : Int} {bs : List Byte} (h : memWrite s a bs = .ok t) :
    t = s.setMem (s.mem.writeBytes a.toNat bs) := by
  rcases memWrite_cases s a bs with ⟨_, he⟩ | ⟨_, he⟩ <;> rw [he] at h <;> cases h
  rfl

@[simp] theorem bytesOfWord_length (w : Word) : (bytesOfWord w).length = 3 := rfl

@[simp] theorem FReg.toList_length (f : FReg) : f.toList.length = 6 := rfl

end Sys2Proof.Machine
end

