-- ==== Sys2Proof/Laws/Devices.lean ====
section
/-! SUPPORT. What the device operations can do. -/

namespace Sys2Proof.Machine

/-- The device of a slot after a slot was replaced. -/
@[simp] theorem State.device_setDevice (s : State) (d e : Byte) (dev : Device) :
    (s.setDevice d dev).device e = if e = d then dev else s.device e := by
  simp only [State.device, State.setDevice, sparseGet_put, BitVec.toNat_inj]

/-- Replacing a slot keeps the canonical form of the device table. -/
theorem State.setDevice_wf {s : State} (h : DeviceTable.wf s.devices = true) (d : Byte) (dev : Device) :
    DeviceTable.wf (s.setDevice d dev).devices = true :=
  sparseWf_put _ dev (by simpa [Config.deviceSlots] using d.isLt) h

/-- A state differs from another in the environment's answers and one device slot at most. -/
def DeviceStep (s t : State) : Prop :=
  (∀ r, t.get r = s.get r) ∧ t.regF = s.regF ∧ t.mem = s.mem ∧ t.fault = s.fault ∧ t.waiting = s.waiting ∧
    t.run = s.run ∧ t.speed = s.speed ∧ (t.devices = s.devices ∨ ∃ d dev, t.devices = (s.setDevice d dev).devices)

theorem DeviceStep.refl (s : State) : DeviceStep s s := by simp [DeviceStep]

theorem readAnswered_setDevice_step (s : State) (d : Byte) (dev : Device) :
    DeviceStep s (s.readAnswered.setDevice d dev) := by
  refine ⟨by simp, by simp, by simp, by simp, by simp, by simp, by simp, .inr ⟨d, dev, by simp⟩⟩

theorem writeAnswered_setDevice_step (s : State) (d : Byte) (dev : Device) :
    DeviceStep s (s.writeAnswered.setDevice d dev) := by
  refine ⟨by simp, by simp, by simp, by simp, by simp, by simp, by simp, .inr ⟨d, dev, by simp⟩⟩

theorem testAnswered_setDevice_step (s : State) (d : Byte) (dev : Device) :
    DeviceStep s (s.testAnswered.setDevice d dev) := by
  refine ⟨by simp, by simp, by simp, by simp, by simp, by simp, by simp, .inr ⟨d, dev, by simp⟩⟩

/-- The state a device operation ends in. -/
def DeviceResult.state {α : Type} : DeviceResult α → State
  | .done _ t => t
  | .blocked t => t
  | .failed t => t

theorem devRead_step (d : Byte) (s : State) : DeviceStep s (devRead d s).state := by
  unfold devRead
  split
  iterate 2 exact DeviceStep.refl s
  all_goals
    split
    · exact readAnswered_setDevice_step s d _
    · exact readAnswered_setDevice_step s d _
    · simp [DeviceStep, DeviceResult.state]
    · exact readAnswered_setDevice_step s d _

theorem devWrite_step (d v : Byte) (s : State) : DeviceStep s (devWrite d v s).state := by
  unfold devWrite
  split
  · exact DeviceStep.refl s
  all_goals
    split
    · exact writeAnswered_setDevice_step s d _
    · exact writeAnswered_setDevice_step s d _

theorem devTest_step (d : Byte) (s : State) : DeviceStep s (devTest d s).state := by
  unfold devTest
  split
  · exact testAnswered_setDevice_step s d _
  · exact testAnswered_setDevice_step s d _
  · simp [DeviceStep, DeviceResult.state]

/-- A write and a test never wait. -/
theorem devWrite_ne_blocked (d v : Byte) (s t : State) : devWrite d v s ≠ .blocked t := by
  unfold devWrite
  split
  · simp
  all_goals split <;> simp

theorem devTest_ne_blocked (d : Byte) (s t : State) : devTest d s ≠ .blocked t := by
  unfold devTest
  split <;> simp

/-- All that RD's device operation can do: a byte into the low byte of A, a wait, or DeviceFault. -/
theorem finishRead_cases (d : Byte) (s : State) :
    ∃ t, DeviceStep s t ∧
      ((∃ v, finishRead d s = (t.set .a (withLowByte (t.get .a) v)).setWaiting none) ∨
        finishRead d s = t.setWaiting (some d) ∨
        finishRead d s = (t.setWaiting none).setFault (some (.device d))) := by
  have h := devRead_step d s
  unfold finishRead
  split
  · rename_i v t hr; rw [hr] at h; exact ⟨t, h, .inl ⟨v, rfl⟩⟩
  · rename_i t hr; rw [hr] at h; exact ⟨t, h, .inr (.inl rfl)⟩
  · rename_i t hr; rw [hr] at h; exact ⟨t, h, .inr (.inr rfl)⟩

/-- All that WD's device operation can do: nothing to the registers, or DeviceFault. -/
theorem finishWrite_cases (d v : Byte) (s : State) :
    ∃ t, DeviceStep s t ∧ (finishWrite d v s = t ∨ finishWrite d v s = t.setFault (some (.device d))) := by
  have h := devWrite_step d v s
  unfold finishWrite
  split
  · rename_i u t hr; rw [hr] at h; exact ⟨t, h, .inl rfl⟩
  · rename_i t hr; rw [hr] at h; exact ⟨t, h, .inl rfl⟩
  · rename_i t hr; rw [hr] at h; exact ⟨t, h, .inr rfl⟩

/-- All that TD's device operation can do: a condition code into SW, or DeviceFault. -/
theorem finishTest_cases (d : Byte) (s : State) :
    ∃ t, DeviceStep s t ∧
      ((∃ v, finishTest d s = t.write .sw v) ∨ finishTest d s = t.setFault (some (.device d))) := by
  have h := devTest_step d s
  unfold finishTest
  split
  · rename_i t hr; rw [hr] at h; exact ⟨t, h, .inl ⟨_, rfl⟩⟩
  · rename_i t hr; rw [hr] at h; exact ⟨t, h, .inl ⟨_, rfl⟩⟩
  · rename_i t hr; exact absurd hr (devTest_ne_blocked d s t)
  · rename_i t hr; rw [hr] at h; exact ⟨t, h, .inr rfl⟩

end Sys2Proof.Machine
end

