-- ==== Sys2Proof/Laws/Fetch.lean ====
section
/-! SUPPORT. What fetching can do: how far PC advances, and which faults end it. -/

namespace Sys2Proof.Machine

/-- A write of PC by PC's own reading changes nothing. -/
@[simp] theorem State.write_read_self (s : State) (r : Reg) : s.write r (s.read r) = s := by
  simp [State.write, State.read]

@[simp] theorem State.write_write (s : State) (r : Reg) (v w : Int) : (s.write r v).write r w = s.write r w := by
  simp [State.write]

/-- One fetch: an out-of-range PC faults; else the byte at PC is read and PC goes on by 1, without wrapping. -/
theorem fetchByte_cases (s : State) :
    (inRange (s.read .pc) 1 = false ∧ fetchByte s = .error (.addressRange (s.read .pc))) ∨
      (inRange (s.read .pc) 1 = true ∧
        fetchByte s = .ok (s.byteAt (s.read .pc).toNat, s.write .pc (s.read .pc + 1)) ∧
        (s.write .pc (s.read .pc + 1)).read .pc = s.read .pc + 1) := by
  rcases memRead1_cases s (s.read .pc) with ⟨hr, he⟩ | ⟨hr, he⟩
  · exact .inl ⟨hr, by simp [fetchByte, he]⟩
  · refine .inr ⟨hr, by simp [fetchByte, he], ?_⟩
    rw [inRange_iff] at hr
    simp only [Config.memorySize] at hr
    rw [State.read_write, if_pos rfl, s24_trunc24 (by omega) (by omega)]

/-- What can end the fetch of an instruction that began at `pc`. -/
def FetchFault (k : Fault) : Prop :=
  (∃ b1, classify b1 = none ∧ k = .decodeFailure (.unknownOpcode b1)) ∨ ∃ a, inRange a 1 = false ∧ k = .addressRange a

/-- The end of a fetch that began in `s` and read at most `n` bytes. -/
def Fetched.Within (s : State) (n : Nat) : Fetched → Prop
  | .instr i t => i.wellFormed = true ∧ ∃ j : Nat, 1 ≤ j ∧ j ≤ n ∧ t = s.write .pc (s.read .pc + (j : Int))
  | .raised k t => FetchFault k ∧ ∃ j : Nat, j ≤ n ∧ t = s.write .pc (s.read .pc + (j : Int))

/-- One more byte in the fetch of an instruction. -/
theorem fetchThen_within {s t : State} {n j : Nat} {go : Byte → State → Fetched}
    (ht : t = s.write .pc (s.read .pc + (j : Int))) (hpc : t.read .pc = s.read .pc + (j : Int)) (hj : j < n)
    (h : ∀ v u, u = s.write .pc (s.read .pc + ((j + 1 : Nat) : Int)) →
      u.read .pc = s.read .pc + ((j + 1 : Nat) : Int) → (go v u).Within s n) :
    (fetchThen t go).Within s n := by
  unfold fetchThen
  rcases fetchByte_cases t with ⟨hr, he⟩ | ⟨_, he, hpc'⟩ <;> rw [he]
  · exact ⟨.inr ⟨_, hr, rfl⟩, j, by omega, ht⟩
  · have e : t.read .pc + 1 = s.read .pc + ((j + 1 : Nat) : Int) := by rw [hpc]; omega
    refine h _ _ ?_ ?_
    · rw [e, ht, State.write_write]
    · rw [hpc', e]

/-- All that the fetch of an instruction can do: 1 to 4 bytes read and a well-formed instruction, or a fault of the fetch
with PC past the bytes read before it. -/
theorem fetchInstr_within (s : State) : (fetchInstr s).Within s 4 := by
  unfold fetchInstr
  refine fetchThen_within (j := 0) (by simp) (by simp) (by decide) fun b1 s1 h1 p1 => ?_
  split
  · rename_i hc
    exact ⟨.inl ⟨b1, hc, rfl⟩, 1, by decide, h1⟩
  · rename_i i hc
    exact ⟨classify_sound hc, 1, by decide, by decide, h1⟩
  · rename_i mk hc
    refine fetchThen_within h1 p1 (by decide) fun b2 s2 h2 p2 => ?_
    exact ⟨classify_sound hc _ _, 2, by decide, by decide, h2⟩
  · rename_i mk hc
    refine fetchThen_within h1 p1 (by decide) fun b2 s2 h2 p2 => ?_
    refine fetchThen_within h2 p2 (by decide) fun b3 s3 h3 p3 => ?_
    split
    · rename_i h4
      refine fetchThen_within h3 p3 (by decide) fun b4 s4 h4' p4 => ?_
      exact ⟨(classify_sound hc _).trans (operand4_wellFormed b3 b4 h4), 4, by decide, by decide, h4'⟩
    · exact ⟨(classify_sound hc _).trans (operand3_wellFormed b1 b2 b3), 3, by decide, by decide, h3⟩

end Sys2Proof.Machine
end

