-- ==== Sys2Proof/Laws/Finished.lean ====
section
/-! SUPPORT. What it means that a machine spins or is finished. -/

namespace Sys2Proof.Machine

/-- A jump by a write to index 8 is that of an instruction that completes without a fault and leaves the target in PC. -/
theorem writtenToPC_eq_some {i : Instr} {s : State} {u : Int} :
    writtenToPC i s = some u ↔ ∃ t, exec i s = .next t ∧ t.fault = none ∧ t.read .pc = u := by
  unfold writtenToPC
  cases exec i s <;> simp

/-- A register that reads as another does holds the same bits. -/
theorem State.get_eq_of_read_eq {s t : State} {q r : Reg} (h : s.read q = t.read r) : s.get q = t.get r := by
  rw [← trunc24_s24 (s.get q), ← trunc24_s24 (t.get r)]
  exact congrArg trunc24 h

/-- A machine that spins has no fault latched and waits on nothing, and the instruction at PC jumps to its own address. -/
theorem State.spins_cases {s : State} (h : s.spins = true) :
    s.fault = none ∧ s.waiting = none ∧
      ∃ i t, fetchInstr s = .instr i t ∧ takenJumpTarget i t = some (s.read .pc) := by
  unfold State.spins at h
  split at h
  · rename_i i t hf hw he
    exact ⟨hf, hw, i, t, he, eq_of_beq h⟩
  · cases h

/-- A finished machine spins or has a fault latched. -/
theorem State.finished_iff (s : State) : s.finished = true ↔ s.spins = true ∨ s.fault.isSome = true := by
  simp [State.finished]

end Sys2Proof.Machine
end

