-- ==== Sys2Proof/Laws/Host.lean ====
section
/-! SUPPORT. What a report says, and what the actions of the host can do. -/

namespace Sys2Proof.Machine

/-- A step reports `Halt(K)` exactly when it leaves K in the latch. -/
@[simp] theorem State.report_eq_halt (s : State) (k : Fault) : s.report = .halt k ↔ s.fault = some k := by
  unfold State.report
  split <;> simp_all

/-- A step is reported unfinished exactly when it waits on a device with no fault latched. -/
theorem State.report_eq_unfinished (s : State) :
    s.report = .unfinished ↔ s.fault = none ∧ s.waiting.isSome = true := by
  unfold State.report
  split <;> simp_all

/-- A step is reported `Ok` exactly when it has finished with no fault latched. -/
theorem State.report_eq_ok (s : State) : s.report = .ok ↔ s.fault = none ∧ s.waiting = none := by
  unfold State.report
  split <;> simp_all

@[simp] theorem hostDone_state (s : State) : (hostDone s).state = s := rfl
@[simp] theorem hostDone_error (s : State) : (hostDone s).error = none := rfl
@[simp] theorem hostRefused_state (e : HostError) (s : State) : (hostRefused e s).state = s := rfl
@[simp] theorem hostRefused_error (e : HostError) (s : State) : (hostRefused e s).error = some e := rfl

/-- While a step is blocked every action but `stop()` is turned away, with nothing changed. -/
theorem hostAct_blocked {s : State} {d : Byte} (h : s.waiting = some d) {act : HostAction}
    (ha : act.passesBlockedStep = false) : hostAct act s = hostRefused .busy s := by
  simp [hostAct, h, ha]

/-- Between steps every action is made. -/
theorem hostAct_between {s : State} (h : s.waiting = none) (act : HostAction) : hostAct act s = machineAction act s := by
  simp [hostAct, h]

/-- All that an action of the host can do: nothing with `busy`, or what it does between steps. -/
theorem hostAct_cases (act : HostAction) (s : State) :
    hostAct act s = hostRefused .busy s ∨ hostAct act s = machineAction act s := by
  unfold hostAct
  split
  · exact .inl rfl
  · exact .inr rfl

/-- All that a store of the host can do: nothing when a byte is out of range, else exactly its bytes. -/
theorem hostStore_cases (a : Int) (bs : List Byte) (s : State) :
    (inRange a bs.length = false ∧ hostStore a bs s = hostRefused (.addressRange a) s) ∨
      (inRange a bs.length = true ∧ hostStore a bs s = hostDone (s.setMem (s.mem.writeBytes a.toNat bs))) := by
  unfold hostStore
  rcases memWrite_cases s a bs with ⟨hr, he⟩ | ⟨hr, he⟩ <;> rw [he]
  · exact .inl ⟨hr, rfl⟩
  · exact .inr ⟨hr, rfl⟩

/-- A byte write is made exactly when its address is below 2^20. -/
theorem memWrite_byte (s : State) (a : Nat) (v : Byte) :
    memWrite s (a : Int) [v] =
      if a < Config.memorySize then .ok (s.setMem (s.mem.write a v)) else .error (.addressRange (a : Int)) := by
  have h := inRange_iff (a : Int) [v].length
  simp only [List.length_singleton] at h
  by_cases ha : a < Config.memorySize
  · rw [if_pos ha, memWrite, List.length_singleton, if_pos (h.2 (by omega))]
    rfl
  · rw [if_neg ha, memWrite, List.length_singleton, if_neg (fun hr => ha (by have := h.1 hr; omega))]

/-- All that the byte writes of a T record do: the bytes below 2^20 are written, and the first address at or past it that
a byte is for, if there is one, is where they end. -/
theorem loadBytes_eq (s : State) (a : Nat) (bs : List Byte) :
    loadBytes s (a : Int) bs =
      (s.setMem (s.mem.writeBytes a (bs.take (Config.memorySize - a))),
        if bs = [] ∨ a + bs.length ≤ Config.memorySize then none else some ((max a Config.memorySize : Nat) : Int)) := by
  induction bs generalizing s a with
  | nil => simp [loadBytes, Memory.writeBytes, State.setMem]
  | cons v rest ih =>
    have hcast : (a : Int) + 1 = ((a + 1 : Nat) : Int) := by omega
    rw [loadBytes, memWrite_byte, hcast]
    generalize Config.memorySize = m at *
    by_cases ha : a < m
    · have hm : m - a = m - (a + 1) + 1 := by omega
      have hmax : max (a + 1) m = max a m := by omega
      have hfit : (rest = [] ∨ a + 1 + rest.length ≤ m) ↔ a + (rest.length + 1) ≤ m := by
        cases rest with
        | nil => simp; omega
        | cons w ws => simp; omega
      rw [if_pos ha]
      dsimp only
      rw [ih, hm, hmax]
      simp only [List.take_succ_cons, Memory.writeBytes, State.setMem, List.length_cons, reduceCtorEq, false_or, hfit]
    · have hm : m - a = 0 := by omega
      have hmax : max a m = a := by omega
      have hlong : ¬ a + (rest.length + 1) ≤ m := by omega
      simp [ha, hm, hmax, hlong, Memory.writeBytes, State.setMem]

/-- The byte writes of a T record keep the canonical form of memory. -/
theorem loadBytes_wf {s : State} (h : s.mem.wf = true) (a : Nat) (bs : List Byte) :
    (loadBytes s (a : Int) bs).1.mem.wf = true := by
  rw [loadBytes_eq]
  by_cases ha : a ≤ Config.memorySize
  · exact Memory.wf_writeBytes h _ (by simp; omega)
  · rw [show Config.memorySize - a = 0 by omega]
    exact h

end Sys2Proof.Machine
end

