-- ==== Sys2Proof/Laws/Operands.lean ====
section
/-! SUPPORT. What the shared operand operations can answer. -/

namespace Sys2Proof.Machine

@[simp] theorem raise_eq (k : Fault) (s : State) : raise k s = .next (s.setFault (some k)) := rfl

@[simp] theorem onOk_ok {α : Type} (v : α) (s : State) (go : α → StepResult) : onOk (.ok v) s go = go v := rfl

@[simp] theorem onOk_error {α : Type} (k : Fault) (s : State) (go : α → StepResult) :
    onOk (.error k) s go = .next (s.setFault (some k)) := rfl

/-- All that going on after a check can do: take the fault the check met, or what follows it. -/
theorem onOk_cases {α : Type} {r : Except Fault α} {s t : State} {go : α → StepResult} (h : onOk r s go = .next t) :
    (∃ k, r = .error k ∧ t = s.setFault (some k)) ∨ ∃ v, r = .ok v ∧ go v = .next t := by
  cases r with
  | error k => exact .inl ⟨k, rfl, by simpa using h.symm⟩
  | ok v => exact .inr ⟨v, rfl, h⟩

/-- Going on after a check completes when what follows it does. -/
theorem onOk_completes {α : Type} (r : Except Fault α) (s : State) {go : α → StepResult}
    (h : ∀ v, ∃ t, go v = .next t) : ∃ t, onOk r s go = .next t := by
  cases r with
  | error k => exact ⟨_, rfl⟩
  | ok v => exact h v

/-- All that the check of two register fields can do. -/
theorem withRegs_cases {mn : String} {r1 r2 : BitVec 4} {s t : State} {go : Reg → Reg → StepResult}
    (h : withRegs mn r1 r2 s go = .next t) :
    (∃ k, (checkReg mn r1 = .error k ∨ checkReg mn r2 = .error k) ∧ t = s.setFault (some k)) ∨
      ∃ p q, checkReg mn r1 = .ok p ∧ checkReg mn r2 = .ok q ∧ go p q = .next t := by
  rcases onOk_cases h with ⟨k, hk, ht⟩ | ⟨p, hp, h⟩
  · exact .inl ⟨k, .inl hk, ht⟩
  · rcases onOk_cases h with ⟨k, hk, ht⟩ | ⟨q, hq, h⟩
    · exact .inl ⟨k, .inr hk, ht⟩
    · exact .inr ⟨p, q, hp, hq, h⟩

/-- The faults the register check can raise. -/
theorem checkReg_error {mn : String} {k : BitVec 4} {e : Fault} (h : checkReg mn k = .error e) :
    (k = 6 ∧ e = .unimplemented mn) ∨ ((k = 7 ∨ 10 ≤ k.toNat) ∧ e = .registerIndex k) := by
  have hk := k.isLt
  have key : ∀ n, n < 16 → k = BitVec.ofNat 4 n →
      (k = 6 ∧ e = .unimplemented mn) ∨ ((k = 7 ∨ 10 ≤ k.toNat) ∧ e = .registerIndex k) := by
    intro n hn hkn
    subst hkn
    have hcases : n = 0 ∨ n = 1 ∨ n = 2 ∨ n = 3 ∨ n = 4 ∨ n = 5 ∨ n = 6 ∨ n = 7 ∨ n = 8 ∨ n = 9 ∨ n = 10 ∨ n = 11 ∨
        n = 12 ∨ n = 13 ∨ n = 14 ∨ n = 15 := by omega
    rcases hcases with e | e | e | e | e | e | e | e | e | e | e | e | e | e | e | e <;> subst e <;>
      simp_all [checkReg]
  exact key k.toNat hk (by simp)

/-- The faults the resolver can raise: the flags of Format 3, or an out-of-range pointer (R112, R114). -/
theorem resolve_error {s : State} {m : Operand} {e : Fault} (h : resolve s m = .error e) :
    (∃ fl disp, m = .f3 fl disp ∧ isImmediate m = false ∧ fl.b = fl.p ∧
        e = .decodeFailure (.invalidAddressing fl)) ∨
      ∃ ta, inRange ta 3 = false ∧ e = .addressRange ta := by
  unfold resolve at h
  split at h
  · cases h
  · rename_i himm
    split at h
    · rename_i k hk
      cases h
      unfold targetAddress at hk
      split at hk
      · cases hk
      · cases hk
      · rename_i fl disp
        refine .inl ⟨fl, disp, rfl, by simpa using himm, ?_⟩
        split at hk <;> cases hk
        rename_i h1 h2
        cases hb : fl.b <;> cases hp : fl.p <;> simp_all
    · rename_i ta _
      split at h
      · rename_i k hk
        cases h
        unfold indirection at hk
        split at hk
        · rcases memRead3_cases s ta with ⟨hr, he⟩ | ⟨_, he⟩ <;> rw [he] at hk <;> cases hk
          exact .inr ⟨ta, hr, rfl⟩
        · cases hk
      · cases h

/-- The faults an operand word can raise: the resolver's, or an out-of-range word (R115). -/
theorem operandWord_error {s : State} {m : Operand} {e : Fault} (h : operandWord s m = .error e) :
    resolve s m = .error e ∨ ∃ u, inRange u 3 = false ∧ e = .addressRange u := by
  unfold operandWord at h
  split at h
  · rename_i k hk; cases h; exact .inl hk
  · rename_i u _
    split at h
    · cases h
    · rcases memRead3_cases s u with ⟨hr, he⟩ | ⟨_, he⟩ <;> rw [he] at h <;> cases h
      exact .inr ⟨u, hr, rfl⟩

/-- The faults an operand byte can raise: the resolver's, or an out-of-range byte (R115). -/
theorem operandByte_error {s : State} {m : Operand} {e : Fault} (h : operandByte s m = .error e) :
    resolve s m = .error e ∨ ∃ u, inRange u 1 = false ∧ e = .addressRange u := by
  unfold operandByte at h
  split at h
  · rename_i k hk; cases h; exact .inl hk
  · rename_i u _
    split at h
    · cases h
    · rcases memRead1_cases s u with ⟨hr, he⟩ | ⟨_, he⟩ <;> rw [he] at h <;> cases h
      exact .inr ⟨u, hr, rfl⟩

end Sys2Proof.Machine
end

