-- ==== Sys2Proof/Laws/Meanings.lean ====
section
/-! SUPPORT. What the operations the meanings share can do: one lemma each, cited instead of unfolding. -/

namespace Sys2Proof.Machine

/-- All that a word load can do. -/
theorem loadWord_cases {r : Reg} {m : Operand} {s t : State} (h : loadWord r m s = .next t) :
    (∃ k, operandWord s m = .error k ∧ t = s.setFault (some k)) ∨
      ∃ v, operandWord s m = .ok v ∧ t = s.write r v := by
  rcases onOk_cases h with h | ⟨v, hv, h⟩
  · exact .inl h
  · exact .inr ⟨v, hv, by simpa using h.symm⟩

/-- All that arithmetic on A can do. -/
theorem arithA_cases {f : Int → Int → Int} {m : Operand} {s t : State} (h : arithA f m s = .next t) :
    (∃ k, operandWord s m = .error k ∧ t = s.setFault (some k)) ∨
      ∃ v, operandWord s m = .ok v ∧ t = s.write .a (f (s.read .a) v) := by
  rcases onOk_cases h with h | ⟨v, hv, h⟩
  · exact .inl h
  · exact .inr ⟨v, hv, by simpa using h.symm⟩

/-- All that a store can do: a fault of the resolver, an out-of-range fault with nothing written, or the bytes stored. -/
theorem storeBytes_cases {bs : List Byte} {m : Operand} {s t : State} (h : storeBytes bs m s = .next t) :
    (∃ k, resolve s m = .error k ∧ t = s.setFault (some k)) ∨
      ∃ u, resolve s m = .ok u ∧
        ((inRange u bs.length = false ∧ t = s.setFault (some (.addressRange u))) ∨
          (inRange u bs.length = true ∧ t = s.setMem (s.mem.writeBytes u.toNat bs))) := by
  rcases onOk_cases h with h | ⟨u, hu, h⟩
  · exact .inl h
  · refine .inr ⟨u, hu, ?_⟩
    rcases memWrite_cases s u bs with ⟨hr, he⟩ | ⟨hr, he⟩ <;> rw [he] at h
    · exact .inl ⟨hr, by simpa using h.symm⟩
    · exact .inr ⟨hr, by simpa using h.symm⟩

/-- All that a jump can do. -/
theorem jumpIf_cases {c : Bool} {m : Operand} {s t : State} (h : jumpIf c m s = .next t) :
    (∃ k, resolve s m = .error k ∧ t = s.setFault (some k)) ∨
      ∃ u, resolve s m = .ok u ∧ t = if c then s.write .pc u else s := by
  rcases onOk_cases h with h | ⟨u, hu, h⟩
  · exact .inl h
  · exact .inr ⟨u, hu, by simpa using h.symm⟩

/-- All that arithmetic between two registers can do. -/
theorem arithRegs_cases {mn : String} {f : Int → Int → Int} {r1 r2 : BitVec 4} {s t : State}
    (h : arithRegs mn f r1 r2 s = .next t) :
    (∃ k, (checkReg mn r1 = .error k ∨ checkReg mn r2 = .error k) ∧ t = s.setFault (some k)) ∨
      ∃ p q, checkReg mn r1 = .ok p ∧ checkReg mn r2 = .ok q ∧ t = s.write q (f (s.read q) (s.read p)) := by
  rcases withRegs_cases h with h | ⟨p, q, hp, hq, h⟩
  · exact .inl h
  · exact .inr ⟨p, q, hp, hq, by simpa using h.symm⟩

/-- The increment of X and the comparison after it change X and SW only. -/
theorem get_incrementX_compare (s : State) (a b : Int) (r : Reg) :
    (s.incrementX.compare a b).get r =
      if r = .sw then trunc24 (cmp a b) else if r = .x then trunc24 (s.read .x + 1) else s.get r := by
  simp [State.incrementX, State.compare]

end Sys2Proof.Machine
end

