-- ==== Sys2Proof/Laws/PerInstr.lean ====
section
/-! SUPPORT. Families of lemmas with one lemma per constructor of Instr. -/

namespace Sys2Proof.Laws

/-- The encoding of an instruction has the length its format gives it: 1 byte in Format 1, 2 in Format 2, 3 or 4 in the
F3_F4 family (30_encoding.md R70, R77). -/
def EncodedLength.Statement (i : Instr) : Prop :=
  (encode i).length = instrLength i ∧
    ((formatOf i = .f1 ∧ instrLength i = 1) ∨ (formatOf i = .f2 ∧ instrLength i = 2) ∨
      (formatOf i = .f34 ∧ (instrLength i = 3 ∨ instrLength i = 4)))

theorem EncodedLength.of_operand {i : Instr} (m : Operand) {op : Nat} (he : encode i = encodeF34 op m)
    (hl : instrLength i = operandLength m) (hf : formatOf i = .f34) : EncodedLength.Statement i := by
  refine ⟨by rw [he, hl, encodeF34_length], .inr (.inr ⟨hf, ?_⟩)⟩
  rw [hl]
  cases m
  · exact .inl rfl
  · exact .inl rfl
  · exact .inr rfl

theorem EncodedLength.lda (m : Operand) : EncodedLength.Statement (.lda m) :=
  EncodedLength.of_operand m rfl rfl rfl

theorem EncodedLength.ldx (m : Operand) : EncodedLength.Statement (.ldx m) :=
  EncodedLength.of_operand m rfl rfl rfl

theorem EncodedLength.ldl (m : Operand) : EncodedLength.Statement (.ldl m) :=
  EncodedLength.of_operand m rfl rfl rfl

theorem EncodedLength.sta (m : Operand) : EncodedLength.Statement (.sta m) :=
  EncodedLength.of_operand m rfl rfl rfl

theorem EncodedLength.stx (m : Operand) : EncodedLength.Statement (.stx m) :=
  EncodedLength.of_operand m rfl rfl rfl

theorem EncodedLength.stl (m : Operand) : EncodedLength.Statement (.stl m) :=
  EncodedLength.of_operand m rfl rfl rfl

theorem EncodedLength.add (m : Operand) : EncodedLength.Statement (.add m) :=
  EncodedLength.of_operand m rfl rfl rfl

theorem EncodedLength.sub (m : Operand) : EncodedLength.Statement (.sub m) :=
  EncodedLength.of_operand m rfl rfl rfl

theorem EncodedLength.mul (m : Operand) : EncodedLength.Statement (.mul m) :=
  EncodedLength.of_operand m rfl rfl rfl

theorem EncodedLength.div (m : Operand) : EncodedLength.Statement (.div m) :=
  EncodedLength.of_operand m rfl rfl rfl

theorem EncodedLength.comp (m : Operand) : EncodedLength.Statement (.comp m) :=
  EncodedLength.of_operand m rfl rfl rfl

theorem EncodedLength.tix (m : Operand) : EncodedLength.Statement (.tix m) :=
  EncodedLength.of_operand m rfl rfl rfl

theorem EncodedLength.jeq (m : Operand) : EncodedLength.Statement (.jeq m) :=
  EncodedLength.of_operand m rfl rfl rfl

theorem EncodedLength.jgt (m : Operand) : EncodedLength.Statement (.jgt m) :=
  EncodedLength.of_operand m rfl rfl rfl

theorem EncodedLength.jlt (m : Operand) : EncodedLength.Statement (.jlt m) :=
  EncodedLength.of_operand m rfl rfl rfl

theorem EncodedLength.j (m : Operand) : EncodedLength.Statement (.j m) :=
  EncodedLength.of_operand m rfl rfl rfl

theorem EncodedLength.and (m : Operand) : EncodedLength.Statement (.and m) :=
  EncodedLength.of_operand m rfl rfl rfl

theorem EncodedLength.or (m : Operand) : EncodedLength.Statement (.or m) :=
  EncodedLength.of_operand m rfl rfl rfl

theorem EncodedLength.jsub (m : Operand) : EncodedLength.Statement (.jsub m) :=
  EncodedLength.of_operand m rfl rfl rfl

theorem EncodedLength.rsub (m : Operand) : EncodedLength.Statement (.rsub m) :=
  EncodedLength.of_operand m rfl rfl rfl

theorem EncodedLength.ldch (m : Operand) : EncodedLength.Statement (.ldch m) :=
  EncodedLength.of_operand m rfl rfl rfl

theorem EncodedLength.stch (m : Operand) : EncodedLength.Statement (.stch m) :=
  EncodedLength.of_operand m rfl rfl rfl

theorem EncodedLength.addf (m : Operand) : EncodedLength.Statement (.addf m) :=
  EncodedLength.of_operand m rfl rfl rfl

theorem EncodedLength.subf (m : Operand) : EncodedLength.Statement (.subf m) :=
  EncodedLength.of_operand m rfl rfl rfl

theorem EncodedLength.mulf (m : Operand) : EncodedLength.Statement (.mulf m) :=
  EncodedLength.of_operand m rfl rfl rfl

theorem EncodedLength.divf (m : Operand) : EncodedLength.Statement (.divf m) :=
  EncodedLength.of_operand m rfl rfl rfl

theorem EncodedLength.ldb (m : Operand) : EncodedLength.Statement (.ldb m) :=
  EncodedLength.of_operand m rfl rfl rfl

theorem EncodedLength.lds (m : Operand) : EncodedLength.Statement (.lds m) :=
  EncodedLength.of_operand m rfl rfl rfl

theorem EncodedLength.ldf (m : Operand) : EncodedLength.Statement (.ldf m) :=
  EncodedLength.of_operand m rfl rfl rfl

theorem EncodedLength.ldt (m : Operand) : EncodedLength.Statement (.ldt m) :=
  EncodedLength.of_operand m rfl rfl rfl

theorem EncodedLength.stb (m : Operand) : EncodedLength.Statement (.stb m) :=
  EncodedLength.of_operand m rfl rfl rfl

theorem EncodedLength.sts (m : Operand) : EncodedLength.Statement (.sts m) :=
  EncodedLength.of_operand m rfl rfl rfl

theorem EncodedLength.stf (m : Operand) : EncodedLength.Statement (.stf m) :=
  EncodedLength.of_operand m rfl rfl rfl

theorem EncodedLength.stt (m : Operand) : EncodedLength.Statement (.stt m) :=
  EncodedLength.of_operand m rfl rfl rfl

theorem EncodedLength.compf (m : Operand) : EncodedLength.Statement (.compf m) :=
  EncodedLength.of_operand m rfl rfl rfl

theorem EncodedLength.addr (r1 r2 : BitVec 4) : EncodedLength.Statement (.addr r1 r2) :=
  ⟨rfl, Or.inr (Or.inl ⟨rfl, rfl⟩)⟩

theorem EncodedLength.subr (r1 r2 : BitVec 4) : EncodedLength.Statement (.subr r1 r2) :=
  ⟨rfl, Or.inr (Or.inl ⟨rfl, rfl⟩)⟩

theorem EncodedLength.mulr (r1 r2 : BitVec 4) : EncodedLength.Statement (.mulr r1 r2) :=
  ⟨rfl, Or.inr (Or.inl ⟨rfl, rfl⟩)⟩

theorem EncodedLength.divr (r1 r2 : BitVec 4) : EncodedLength.Statement (.divr r1 r2) :=
  ⟨rfl, Or.inr (Or.inl ⟨rfl, rfl⟩)⟩

theorem EncodedLength.compr (r1 r2 : BitVec 4) : EncodedLength.Statement (.compr r1 r2) :=
  ⟨rfl, Or.inr (Or.inl ⟨rfl, rfl⟩)⟩

theorem EncodedLength.shiftl (r1 r2 : BitVec 4) : EncodedLength.Statement (.shiftl r1 r2) :=
  ⟨rfl, Or.inr (Or.inl ⟨rfl, rfl⟩)⟩

theorem EncodedLength.shiftr (r1 r2 : BitVec 4) : EncodedLength.Statement (.shiftr r1 r2) :=
  ⟨rfl, Or.inr (Or.inl ⟨rfl, rfl⟩)⟩

theorem EncodedLength.rmo (r1 r2 : BitVec 4) : EncodedLength.Statement (.rmo r1 r2) :=
  ⟨rfl, Or.inr (Or.inl ⟨rfl, rfl⟩)⟩

theorem EncodedLength.svc (r1 r2 : BitVec 4) : EncodedLength.Statement (.svc r1 r2) :=
  ⟨rfl, Or.inr (Or.inl ⟨rfl, rfl⟩)⟩

theorem EncodedLength.clear (r1 r2 : BitVec 4) : EncodedLength.Statement (.clear r1 r2) :=
  ⟨rfl, Or.inr (Or.inl ⟨rfl, rfl⟩)⟩

theorem EncodedLength.tixr (r1 r2 : BitVec 4) : EncodedLength.Statement (.tixr r1 r2) :=
  ⟨rfl, Or.inr (Or.inl ⟨rfl, rfl⟩)⟩

theorem EncodedLength.float : EncodedLength.Statement .float := ⟨rfl, Or.inl ⟨rfl, rfl⟩⟩

theorem EncodedLength.fix : EncodedLength.Statement .fix := ⟨rfl, Or.inl ⟨rfl, rfl⟩⟩

theorem EncodedLength.norm : EncodedLength.Statement .norm := ⟨rfl, Or.inl ⟨rfl, rfl⟩⟩

theorem EncodedLength.lps (m : Operand) : EncodedLength.Statement (.lps m) :=
  EncodedLength.of_operand m rfl rfl rfl

theorem EncodedLength.sti (m : Operand) : EncodedLength.Statement (.sti m) :=
  EncodedLength.of_operand m rfl rfl rfl

theorem EncodedLength.rd (m : Operand) : EncodedLength.Statement (.rd m) :=
  EncodedLength.of_operand m rfl rfl rfl

theorem EncodedLength.wd (m : Operand) : EncodedLength.Statement (.wd m) :=
  EncodedLength.of_operand m rfl rfl rfl

theorem EncodedLength.td (m : Operand) : EncodedLength.Statement (.td m) :=
  EncodedLength.of_operand m rfl rfl rfl

theorem EncodedLength.stsw (m : Operand) : EncodedLength.Statement (.stsw m) :=
  EncodedLength.of_operand m rfl rfl rfl

theorem EncodedLength.ssk (m : Operand) : EncodedLength.Statement (.ssk m) :=
  EncodedLength.of_operand m rfl rfl rfl

theorem EncodedLength.sio : EncodedLength.Statement .sio := ⟨rfl, Or.inl ⟨rfl, rfl⟩⟩

theorem EncodedLength.hio : EncodedLength.Statement .hio := ⟨rfl, Or.inl ⟨rfl, rfl⟩⟩

theorem EncodedLength.tio : EncodedLength.Statement .tio := ⟨rfl, Or.inl ⟨rfl, rfl⟩⟩

end Sys2Proof.Laws
end

