-- ==== Sys2Proof/Tests/Slice0.lean ====
section
/-! SUPPORT. Tests: each expected value is worked from spec/ (the encodings of 30_encoding.md, the vectors of
95_test_vectors.md, whose id stands in the theorem's name), and witnesses that the hypotheses of the obligations can be
met. -/

namespace Sys2Proof.Tests.Slice0

-- one theorem after another: many small theorems elaborated at once ask for too many threads
set_option Elab.async false

open Sys2Proof Sys2Proof.Machine

/-! ### Well-formedness -/

/-- Format 3 with n = i = 0 is no instruction of that layout (30_encoding.md R73, R76). -/
theorem test_ill_formed_f3 : (Instr.lda (.f3 ⟨false, false, true, false, true⟩ 5)).wellFormed = false := by decide

/-- Format 4 with n = i = 0 is no instruction of that layout (30_encoding.md R74, R76). -/
theorem test_ill_formed_f4 : (Instr.ssk (.f4 ⟨false, false, false, false, false⟩ 5)).wellFormed = false := by decide

theorem test_well_formed_layouts :
    ((Instr.lda (.sic true 0x7FFF)).wellFormed && (Instr.lda (.f3 ⟨false, true, false, false, false⟩ 5)).wellFormed &&
      (Instr.lda (.f4 ⟨true, false, false, false, false⟩ 5)).wellFormed) = true := by decide

/-! ### Decoding: one word for each constructor, written out from its row of 30_encoding.md -/

theorem test_decode_lda : decode [0x00, 0x9A, 0xBC] = .ok (.lda (.sic true 0x1ABC), []) := rfl
theorem test_decode_ldx : decode [0x04, 0x6A, 0xBC] = .ok (.ldx (.sic false 0x6ABC), []) := rfl
theorem test_decode_ldl : decode [0x0B, 0x2F, 0xF9] = .ok (.ldl (.f3 ⟨true, true, false, false, true⟩ 0xFF9), []) := rfl
theorem test_decode_sta : decode [0x0E, 0x43, 0x21] = .ok (.sta (.f3 ⟨true, false, false, true, false⟩ 0x321), []) := rfl
theorem test_decode_stx : decode [0x13, 0xC0, 0x07] = .ok (.stx (.f3 ⟨true, true, true, true, false⟩ 0x007), []) := rfl
theorem test_decode_stl : decode [0x15, 0x0F, 0xFF] = .ok (.stl (.f3 ⟨false, true, false, false, false⟩ 0xFFF), []) := rfl
theorem test_decode_add : decode [0x19, 0x1A, 0xBC, 0xDE] = .ok (.add (.f4 ⟨false, true, false, false, false⟩ 0xABCDE), []) := rfl
theorem test_decode_sub : decode [0x1F, 0x91, 0x23, 0x45] = .ok (.sub (.f4 ⟨true, true, true, false, false⟩ 0x12345), []) := rfl
theorem test_decode_mul : decode [0x22, 0x1F, 0xFF, 0xFE] = .ok (.mul (.f4 ⟨true, false, false, false, false⟩ 0xFFFFE), []) := rfl
theorem test_decode_div : decode [0x24, 0x9A, 0xBC] = .ok (.div (.sic true 0x1ABC), []) := rfl
theorem test_decode_comp : decode [0x28, 0x6A, 0xBC] = .ok (.comp (.sic false 0x6ABC), []) := rfl
theorem test_decode_tix : decode [0x2F, 0x2F, 0xF9] = .ok (.tix (.f3 ⟨true, true, false, false, true⟩ 0xFF9), []) := rfl
theorem test_decode_jeq : decode [0x32, 0x43, 0x21] = .ok (.jeq (.f3 ⟨true, false, false, true, false⟩ 0x321), []) := rfl
theorem test_decode_jgt : decode [0x37, 0xC0, 0x07] = .ok (.jgt (.f3 ⟨true, true, true, true, false⟩ 0x007), []) := rfl
theorem test_decode_jlt : decode [0x39, 0x0F, 0xFF] = .ok (.jlt (.f3 ⟨false, true, false, false, false⟩ 0xFFF), []) := rfl
theorem test_decode_j : decode [0x3D, 0x1A, 0xBC, 0xDE] = .ok (.j (.f4 ⟨false, true, false, false, false⟩ 0xABCDE), []) := rfl
theorem test_decode_and : decode [0x43, 0x91, 0x23, 0x45] = .ok (.and (.f4 ⟨true, true, true, false, false⟩ 0x12345), []) := rfl
theorem test_decode_or : decode [0x46, 0x1F, 0xFF, 0xFE] = .ok (.or (.f4 ⟨true, false, false, false, false⟩ 0xFFFFE), []) := rfl
theorem test_decode_jsub : decode [0x48, 0x9A, 0xBC] = .ok (.jsub (.sic true 0x1ABC), []) := rfl
theorem test_decode_rsub : decode [0x4C, 0x6A, 0xBC] = .ok (.rsub (.sic false 0x6ABC), []) := rfl
theorem test_decode_ldch : decode [0x53, 0x2F, 0xF9] = .ok (.ldch (.f3 ⟨true, true, false, false, true⟩ 0xFF9), []) := rfl
theorem test_decode_stch : decode [0x56, 0x43, 0x21] = .ok (.stch (.f3 ⟨true, false, false, true, false⟩ 0x321), []) := rfl
theorem test_decode_addf : decode [0x5B, 0xC0, 0x07] = .ok (.addf (.f3 ⟨true, true, true, true, false⟩ 0x007), []) := rfl
theorem test_decode_subf : decode [0x5D, 0x0F, 0xFF] = .ok (.subf (.f3 ⟨false, true, false, false, false⟩ 0xFFF), []) := rfl
theorem test_decode_mulf : decode [0x61, 0x1A, 0xBC, 0xDE] = .ok (.mulf (.f4 ⟨false, true, false, false, false⟩ 0xABCDE), []) := rfl
theorem test_decode_divf : decode [0x67, 0x91, 0x23, 0x45] = .ok (.divf (.f4 ⟨true, true, true, false, false⟩ 0x12345), []) := rfl
theorem test_decode_ldb : decode [0x6A, 0x1F, 0xFF, 0xFE] = .ok (.ldb (.f4 ⟨true, false, false, false, false⟩ 0xFFFFE), []) := rfl
theorem test_decode_lds : decode [0x6C, 0x9A, 0xBC] = .ok (.lds (.sic true 0x1ABC), []) := rfl
theorem test_decode_ldf : decode [0x70, 0x6A, 0xBC] = .ok (.ldf (.sic false 0x6ABC), []) := rfl
theorem test_decode_ldt : decode [0x77, 0x2F, 0xF9] = .ok (.ldt (.f3 ⟨true, true, false, false, true⟩ 0xFF9), []) := rfl
theorem test_decode_stb : decode [0x7A, 0x43, 0x21] = .ok (.stb (.f3 ⟨true, false, false, true, false⟩ 0x321), []) := rfl
theorem test_decode_sts : decode [0x7F, 0xC0, 0x07] = .ok (.sts (.f3 ⟨true, true, true, true, false⟩ 0x007), []) := rfl
theorem test_decode_stf : decode [0x81, 0x0F, 0xFF] = .ok (.stf (.f3 ⟨false, true, false, false, false⟩ 0xFFF), []) := rfl
theorem test_decode_stt : decode [0x85, 0x1A, 0xBC, 0xDE] = .ok (.stt (.f4 ⟨false, true, false, false, false⟩ 0xABCDE), []) := rfl
theorem test_decode_compf : decode [0x8B, 0x91, 0x23, 0x45] = .ok (.compf (.f4 ⟨true, true, true, false, false⟩ 0x12345), []) := rfl
theorem test_decode_lps : decode [0xD2, 0x1F, 0xFF, 0xFE] = .ok (.lps (.f4 ⟨true, false, false, false, false⟩ 0xFFFFE), []) := rfl
theorem test_decode_sti : decode [0xD4, 0x9A, 0xBC] = .ok (.sti (.sic true 0x1ABC), []) := rfl
theorem test_decode_rd : decode [0xD8, 0x6A, 0xBC] = .ok (.rd (.sic false 0x6ABC), []) := rfl
theorem test_decode_wd : decode [0xDF, 0x2F, 0xF9] = .ok (.wd (.f3 ⟨true, true, false, false, true⟩ 0xFF9), []) := rfl
theorem test_decode_td : decode [0xE2, 0x43, 0x21] = .ok (.td (.f3 ⟨true, false, false, true, false⟩ 0x321), []) := rfl
theorem test_decode_stsw : decode [0xEB, 0xC0, 0x07] = .ok (.stsw (.f3 ⟨true, true, true, true, false⟩ 0x007), []) := rfl
theorem test_decode_ssk : decode [0xED, 0x0F, 0xFF] = .ok (.ssk (.f3 ⟨false, true, false, false, false⟩ 0xFFF), []) := rfl
theorem test_decode_addr : decode [0x90, 0x93] = .ok (.addr 9 3, []) := rfl
theorem test_decode_subr : decode [0x94, 0x06] = .ok (.subr 0 6, []) := rfl
theorem test_decode_mulr : decode [0x98, 0x79] = .ok (.mulr 7 9, []) := rfl
theorem test_decode_divr : decode [0x9C, 0xEC] = .ok (.divr 14 12, []) := rfl
theorem test_decode_compr : decode [0xA0, 0x5F] = .ok (.compr 5 15, []) := rfl
theorem test_decode_shiftl : decode [0xA4, 0xC2] = .ok (.shiftl 12 2, []) := rfl
theorem test_decode_shiftr : decode [0xA8, 0x35] = .ok (.shiftr 3 5, []) := rfl
theorem test_decode_rmo : decode [0xAC, 0xA8] = .ok (.rmo 10 8, []) := rfl
theorem test_decode_svc : decode [0xB0, 0x1B] = .ok (.svc 1 11, []) := rfl
theorem test_decode_clear : decode [0xB4, 0x8E] = .ok (.clear 8 14, []) := rfl
theorem test_decode_tixr : decode [0xB8, 0xF1] = .ok (.tixr 15 1, []) := rfl
theorem test_decode_float : decode [0xC0, 0x12] = .ok (.float, [0x12]) := rfl
theorem test_decode_fix : decode [0xC4, 0x12] = .ok (.fix, [0x12]) := rfl
theorem test_decode_norm : decode [0xC8, 0x12] = .ok (.norm, [0x12]) := rfl
theorem test_decode_sio : decode [0xF0, 0x12] = .ok (.sio, [0x12]) := rfl
theorem test_decode_hio : decode [0xF4, 0x12] = .ok (.hio, [0x12]) := rfl
theorem test_decode_tio : decode [0xF8, 0x12] = .ok (.tio, [0x12]) := rfl

/-- Unassigned opcodes and a Format-2 opcode with a low bit set are refused (R81, R82). -/
theorem test_decode_unassigned :
    decode [0x8C] = .error (.unknownOpcode 0x8C) ∧ decode [0xE4] = .error (.unknownOpcode 0xE4) ∧
      decode [0x91, 0x10] = .error (.unknownOpcode 0x91) := ⟨rfl, rfl, rfl⟩

theorem test_decode_truncated : decode [0x4F, 0x10, 0x00] = .error .truncated := rfl

/-- +STL 0x300, bytes 17 10 03 00, as a table word: the first byte is bits 7 to 0. -/
theorem test_table_word : decodeTableWord 32 0x00031017 = some (.stl (.f4 ⟨true, true, false, false, false⟩ 0x300)) := by
  decide

theorem test_encode_shiftl : encode (.shiftl 0 3) = [0xA4, 0x03] := by decide

/-! ### One step -/

/-- A state with PC at an address and bytes placed there. -/
def loaded (pc : Nat) (bs : List Byte) (s : State) : State :=
  { s with regPC := BitVec.ofNat 24 pc, mem := s.mem.writeBytes pc bs }

/-- A state with bytes placed at an address. -/
def withBytes (a : Nat) (bs : List Byte) (s : State) : State := { s with mem := s.mem.writeBytes a bs }

/-- The reset state. -/
abbrev s0 : State := State.reset

/-- What is seen of the state after one step. -/
def after {α : Type} (s : State) (see : State → α) : Option α :=
  match step s with
  | .next t => some (see t)
  | _ => none

theorem test_addr_F2_2 :
    after (loaded 0x0 [0x90, 0x10] { s0 with regX := 1, regA := 0x7FFFFF }) (fun t => t.regA) =
      some 0x800000 := by decide +kernel

theorem test_addr_F2_4 :
    after (loaded 0x40 [0x90, 0x18] { s0 with regX := 0x10 }) (fun t => t.regPC) =
      some 0x52 := by decide +kernel

theorem test_subr_F2_5 :
    after (loaded 0x0 [0x94, 0x10] { s0 with regX := 5, regA := 3 }) (fun t => t.regA) =
      some 0xFFFFFE := by decide +kernel

theorem test_subr_F2_6 :
    after (loaded 0x0 [0x94, 0x10] { s0 with regX := 1, regA := 0x800000 }) (fun t => t.regA) =
      some 0x7FFFFF := by decide +kernel

theorem test_mulr_F2_7 :
    after (loaded 0x0 [0x98, 0x45] { s0 with regS := 3, regT := 0xFFFFFC }) (fun t => t.regT) =
      some 0xFFFFF4 := by decide +kernel

theorem test_mulr_F2_9 :
    after (loaded 0x0 [0x98, 0x10] { s0 with regX := 0xFFFFFF, regA := 0x800000 }) (fun t => t.regA) =
      some 0x800000 := by decide +kernel

theorem test_divr_F2_11 :
    after (loaded 0x0 [0x9C, 0x40] { s0 with regS := 2, regA := 0xFFFFF9 }) (fun t => t.regA) =
      some 0xFFFFFD := by decide +kernel

theorem test_divr_F2_12 :
    after (loaded 0x0 [0x9C, 0x40] { s0 with regS := 0, regA := 22 }) (fun t => (t.fault, t.regPC, t.regA)) =
      some (some .arithmetic, 2, 22) := by decide +kernel

theorem test_compr_F2_15 :
    after (loaded 0x0 [0xA0, 0x50] { s0 with regA := 3, regT := 7 }) (fun t => t.regSW) =
      some 1 := by decide +kernel

theorem test_compr_F2_16 :
    after (loaded 0x0 [0xA0, 0x05] { s0 with regA := 0x800000, regT := 0 }) (fun t => t.regSW) =
      some 0xFFFFFF := by decide +kernel

theorem test_shiftl_F2_18 :
    after (loaded 0x0 [0xA4, 0x03] { s0 with regA := 0x123456 }) (fun t => t.regA) =
      some 0x234561 := by decide +kernel

theorem test_shiftl_F2_20 :
    after (loaded 0x0 [0xA4, 0x0F] { s0 with regA := 0x123456 }) (fun t => t.regA) =
      some 0x561234 := by decide +kernel

theorem test_shiftr_F2_21 :
    after (loaded 0x0 [0xA8, 0x03] { s0 with regA := 0x123456 }) (fun t => t.regA) =
      some 0x012345 := by decide +kernel

theorem test_shiftr_F2_23 :
    after (loaded 0x0 [0xA8, 0x0F] { s0 with regA := 0x800000 }) (fun t => t.regA) =
      some 0xFFFF80 := by decide +kernel

theorem test_rmo_F2_26 :
    after (loaded 0x30 [0xAC, 0x80] s0) (fun t => (t.regA, t.regPC)) =
      some (0x32, 0x32) := by decide +kernel

theorem test_rmo_F2_32 :
    after (loaded 0x0 [0xAC, 0x76] s0) (fun t => (t.fault, t.regPC)) =
      some (some (.registerIndex 7), 2) := by decide +kernel

theorem test_clear_F2_35 :
    after (loaded 0x0 [0xB4, 0x1F] { s0 with regX := 7 }) (fun t => t.regX) =
      some 0 := by decide +kernel

theorem test_clear_F2_36 :
    after (loaded 0x0 [0xB4, 0x60] s0) (fun t => t.fault) =
      some (some (.unimplemented "CLEAR")) := by decide +kernel

theorem test_tixr_F2_39 :
    after (loaded 0x0 [0xB8, 0x50] { s0 with regX := 0x7FFFFF, regT := 0 }) (fun t => (t.regX, t.regSW)) =
      some (0x800000, 0xFFFFFF) := by decide +kernel

theorem test_tixr_F2_40 :
    after (loaded 0x0 [0xB8, 0x10] { s0 with regX := 4 }) (fun t => (t.regX, t.regSW)) =
      some (5, 0) := by decide +kernel

theorem test_svc_F2_41 :
    after (loaded 0x0 [0xB0, 0x10] s0) (fun t => (t.fault, t.regPC)) =
      some (some (.unimplemented "SVC"), 2) := by decide +kernel

theorem test_float_41_format1 :
    after (loaded 0x0 [0xC0] s0) (fun t => (t.fault, t.regPC)) =
      some (some (.unimplemented "FLOAT"), 1) := by decide +kernel

theorem test_fix_41_format1 :
    after (loaded 0x0 [0xC4] s0) (fun t => (t.fault, t.regPC)) =
      some (some (.unimplemented "FIX"), 1) := by decide +kernel

theorem test_norm_41_format1 :
    after (loaded 0x0 [0xC8] s0) (fun t => (t.fault, t.regPC)) =
      some (some (.unimplemented "NORM"), 1) := by decide +kernel

theorem test_sio_41_format1 :
    after (loaded 0x0 [0xF0] s0) (fun t => (t.fault, t.regPC)) =
      some (some (.unimplemented "SIO"), 1) := by decide +kernel

theorem test_hio_41_format1 :
    after (loaded 0x0 [0xF4] s0) (fun t => (t.fault, t.regPC)) =
      some (some (.unimplemented "HIO"), 1) := by decide +kernel

theorem test_tio_41_format1 :
    after (loaded 0x0 [0xF8] s0) (fun t => (t.fault, t.regPC)) =
      some (some (.unimplemented "TIO"), 1) := by decide +kernel

theorem test_lda_LS_1 :
    after (loaded 0x0 [0x01, 0x00, 0x05] s0) (fun t => (t.regA, t.regPC)) =
      some (5, 3) := by decide +kernel

theorem test_ldx_LS_3 :
    after (loaded 0x0 [0x07, 0xA0, 0x00] (withBytes 0x5 [0x00, 0x00, 0x09] { s0 with regX := 2 })) (fun t => (t.regX, t.regPC)) =
      some (9, 3) := by decide +kernel

theorem test_ldl_LS_4 :
    after (loaded 0x0 [0x09, 0x01, 0x00] s0) (fun t => t.regL) =
      some 0x100 := by decide +kernel

theorem test_ldb_LS_5 :
    after (loaded 0x0 [0x69, 0x01, 0x00] s0) (fun t => t.regB) =
      some 0x100 := by decide +kernel

theorem test_lds_LS_6 :
    after (loaded 0x0 [0x6D, 0x00, 0x07] s0) (fun t => t.regS) =
      some 7 := by decide +kernel

theorem test_ldt_LS_7 :
    after (loaded 0x0 [0x75, 0x00, 0x05] s0) (fun t => t.regT) =
      some 5 := by decide +kernel

theorem test_ldch_LS_8 :
    after (loaded 0x0 [0x53, 0xC0, 0x00] (withBytes 0x102 [0x23] { s0 with regA := 0x123456, regB := 0x100, regX := 2 })) (fun t => t.regA) =
      some 0x123423 := by decide +kernel

theorem test_ldch_LS_9 :
    after (loaded 0x0 [0x51, 0x01, 0x41] { s0 with regA := 0x123456 }) (fun t => t.regA) =
      some 0x123441 := by decide +kernel

theorem test_ldf_LS_10 :
    after (loaded 0x0 [0x73, 0x10, 0x02, 0x00] (withBytes 0x200 [0x01, 0x02, 0x03, 0x04, 0x05, 0x06] s0)) (fun t => (t.regF, t.regPC)) =
      some (⟨1, 2, 3, 4, 5, 6⟩, 4) := by decide +kernel

theorem test_ldf_LS_12 :
    after (loaded 0x0 [0x73, 0x1F, 0xFF, 0xFB] s0) (fun t => (t.fault, t.regPC)) =
      some (some (.addressRange 0xFFFFB), 4) := by decide +kernel

theorem test_sta_LS_15 :
    after (loaded 0x0 [0x0D, 0x03, 0x00] { s0 with regA := 0xABCDEF }) (fun t => (t.byteAt 0x300, t.byteAt 0x301, t.byteAt 0x302)) =
      some (0xAB, 0xCD, 0xEF) := by decide +kernel

theorem test_sta_LS_16 :
    after (loaded 0x0 [0x0F, 0x1F, 0xFF, 0xFE] { s0 with regA := 0xABCDEF }) (fun t => (t.fault, t.byteAt 0xFFFFE, t.byteAt 0xFFFFF)) =
      some (some (.addressRange 0xFFFFE), 0, 0) := by decide +kernel

theorem test_stx_LS_17 :
    after (loaded 0x0 [0x13, 0x20, 0x00] { s0 with regX := 2 }) (fun t => t.byteAt 5) =
      some 2 := by decide +kernel

theorem test_stl_LS_18 :
    after (loaded 0x0 [0x17, 0x10, 0x03, 0x00] { s0 with regL := 3 }) (fun t => (t.byteAt 0x302, t.regPC)) =
      some (3, 4) := by decide +kernel

theorem test_stb_LS_19 :
    after (loaded 0x0 [0x7B, 0x10, 0x03, 0x00] { s0 with regB := 0x100 }) (fun t => (t.byteAt 0x301, t.byteAt 0x302)) =
      some (1, 0) := by decide +kernel

theorem test_sts_LS_20 :
    after (loaded 0x0 [0x7F, 0x10, 0x03, 0x00] { s0 with regS := 0xFFFFFF }) (fun t => t.byteAt 0x300) =
      some 0xFF := by decide +kernel

theorem test_stt_LS_21 :
    after (loaded 0x0 [0x87, 0x10, 0x03, 0x00] { s0 with regT := 5 }) (fun t => t.byteAt 0x302) =
      some 5 := by decide +kernel

theorem test_stsw_LS_22 :
    after (loaded 0x0 [0xEB, 0x10, 0x03, 0x00] { s0 with regSW := 0xFFFFFF }) (fun t => t.byteAt 0x300) =
      some 0xFF := by decide +kernel

theorem test_stch_LS_23 :
    after (loaded 0x0 [0x57, 0x40, 0x09] { s0 with regA := 0x123423, regB := 0x100 }) (fun t => (t.byteAt 0x108, t.byteAt 0x109, t.byteAt 0x10A)) =
      some (0, 0x23, 0) := by decide +kernel

theorem test_stf_LS_24 :
    after (loaded 0x0 [0x83, 0x10, 0x03, 0x00] { s0 with regF := ⟨1, 2, 3, 4, 5, 6⟩ }) (fun t => (t.byteAt 0x300, t.byteAt 0x305)) =
      some (1, 6) := by decide +kernel

theorem test_add_AR_2 :
    after (loaded 0x0 [0x19, 0x00, 0x01] { s0 with regA := 0x7FFFFF }) (fun t => t.regA) =
      some 0x800000 := by decide +kernel

theorem test_add_AR_3 :
    after (loaded 0x0 [0x1B, 0x20, 0x00] (withBytes 0x3 [0xFF, 0xFF, 0xFE] { s0 with regA := 5 })) (fun t => t.regA) =
      some 3 := by decide +kernel

theorem test_sub_AR_4 :
    after (loaded 0x0 [0x1D, 0x00, 0x07] { s0 with regA := 5 }) (fun t => t.regA) =
      some 0xFFFFFE := by decide +kernel

theorem test_mul_AR_8 :
    after (loaded 0x0 [0x23, 0x20, 0x00] (withBytes 0x3 [0xFF, 0xFF, 0xFF] { s0 with regA := 0x800000 })) (fun t => t.regA) =
      some 0x800000 := by decide +kernel

theorem test_div_AR_10 :
    after (loaded 0x0 [0x27, 0x20, 0x00] (withBytes 0x3 [0xFF, 0xFF, 0xFE] { s0 with regA := 7 })) (fun t => t.regA) =
      some 0xFFFFFD := by decide +kernel

theorem test_div_AR_11 :
    after (loaded 0x0 [0x25, 0x00, 0x00] { s0 with regA := 7 }) (fun t => (t.fault, t.regPC, t.regA)) =
      some (some .arithmetic, 3, 7) := by decide +kernel

theorem test_and_AR_15 :
    after (loaded 0x0 [0x43, 0x20, 0x00] (withBytes 0x3 [0xFF, 0x00, 0xFF] { s0 with regA := 0x123456 })) (fun t => t.regA) =
      some 0x120056 := by decide +kernel

theorem test_or_AR_16 :
    after (loaded 0x0 [0x45, 0x00, 0x34] { s0 with regA := 0x120000 }) (fun t => t.regA) =
      some 0x120034 := by decide +kernel

theorem test_comp_AR_18 :
    after (loaded 0x0 [0x29, 0x00, 0x00] { s0 with regA := 0x800000 }) (fun t => t.regSW) =
      some 0xFFFFFF := by decide +kernel

theorem test_comp_AR_20 :
    after (loaded 0x0 [0x29, 0x0F, 0xFF] { s0 with regA := 0xFFFFFF }) (fun t => t.regSW) =
      some 0xFFFFFF := by decide +kernel

theorem test_tix_AR_22 :
    after (loaded 0x0 [0x2D, 0x00, 0x00] { s0 with regX := 0x7FFFFF }) (fun t => (t.regX, t.regSW)) =
      some (0x800000, 0xFFFFFF) := by decide +kernel

theorem test_tix_AR_23 :
    after (loaded 0x0 [0x2F, 0xA0, 0x00] (withBytes 0x5 [0x00, 0x00, 0x03] { s0 with regX := 2 })) (fun t => (t.regX, t.regSW)) =
      some (3, 0) := by decide +kernel

theorem test_addf_AR_25 :
    after (loaded 0x0 [0x5B, 0x00, 0x00] s0) (fun t => (t.fault, t.regPC)) =
      some (some (.unimplemented "ADDF"), 3) := by decide +kernel

theorem test_subf_AR_27 :
    after (loaded 0x0 [0x5F, 0x20, 0x00] s0) (fun t => (t.fault, t.regPC)) =
      some (some (.unimplemented "SUBF"), 3) := by decide +kernel

theorem test_mulf_AR_28 :
    after (loaded 0x0 [0x63, 0x20, 0x00] s0) (fun t => (t.fault, t.regPC)) =
      some (some (.unimplemented "MULF"), 3) := by decide +kernel

theorem test_divf_AR_29 :
    after (loaded 0x0 [0x67, 0x10, 0x00, 0x20] s0) (fun t => (t.fault, t.regPC)) =
      some (some (.unimplemented "DIVF"), 4) := by decide +kernel

theorem test_compf_AR_30 :
    after (loaded 0x0 [0x8B, 0x20, 0x00] { s0 with regSW := 1 }) (fun t => (t.fault, t.regPC, t.regSW)) =
      some (some (.unimplemented "COMPF"), 3, 1) := by decide +kernel

theorem test_j_J_2 :
    after (loaded 0x0 [0x3E, 0x20, 0x00] (withBytes 0x3 [0x00, 0x02, 0x00] s0)) (fun t => t.regPC) =
      some 0x200 := by decide +kernel

theorem test_j_J_5 :
    after (loaded 0x0 [0x3E, 0x20, 0x00] (withBytes 0x3 [0xFF, 0xFF, 0xFD] s0)) (fun t => (t.fault, t.regPC)) =
      some (none, 0xFFFFFD) := by decide +kernel

theorem test_jeq_J_6 :
    after (loaded 0xf [0x33, 0x20, 0x03] s0) (fun t => t.regPC) =
      some 0x15 := by decide +kernel

theorem test_jeq_J_8 :
    after (loaded 0x0 [0x33, 0x00, 0x00] { s0 with regSW := 1 }) (fun t => (t.fault, t.regPC)) =
      some (some (.decodeFailure (.invalidAddressing ⟨true, true, false, false, false⟩)), 3) := by decide +kernel

theorem test_jgt_J_10 :
    after (loaded 0x0 [0x37, 0x20, 0x10] { s0 with regSW := 0x7FFFFF }) (fun t => t.regPC) =
      some 0x13 := by decide +kernel

theorem test_jgt_J_11 :
    after (loaded 0x0 [0x37, 0x20, 0x10] { s0 with regSW := 0xFFFFFF }) (fun t => t.regPC) =
      some 3 := by decide +kernel

theorem test_jlt_J_13 :
    after (loaded 0xd [0x3B, 0x2F, 0xF9] { s0 with regSW := 0 }) (fun t => t.regPC) =
      some 0x10 := by decide +kernel

theorem test_jlt_J_14 :
    after (loaded 0xd [0x3B, 0x2F, 0xF9] { s0 with regSW := 0x800000 }) (fun t => t.regPC) =
      some 9 := by decide +kernel

theorem test_jsub_J_16 :
    after (loaded 0x10 [0x4B, 0x10, 0x02, 0x00] s0) (fun t => (t.regL, t.regPC)) =
      some (0x14, 0x200) := by decide +kernel

theorem test_rsub_J_18 :
    after (loaded 0x0 [0x4F, 0x00, 0x00] { s0 with regL := 0x123 }) (fun t => (t.regPC, t.fault)) =
      some (0x123, none) := by decide +kernel

theorem test_rd_DV_2 :
    after (loaded 0x0 [0xDB, 0x20, 0x00, 0x05] { s0 with regA := 0x123456, readAnswers := [.byte 0x7A] }) (fun t => (t.regA, t.regPC)) =
      some (0x12347A, 3) := by decide +kernel

theorem test_rd_DV_3 :
    after (loaded 0x0 [0xD9, 0x00, 0x03] { s0 with regA := 0x123456, readAnswers := [.endOfStream] }) (fun t => (t.regA, t.fault)) =
      some (0x123400, none) := by decide +kernel

theorem test_wd_DV_4 :
    after (loaded 0x0 [0xDD, 0x00, 0x01] { s0 with regA := 0x000041, writeAnswers := [.accepted] }) (fun t => ((t.device 1).written, t.regPC)) =
      some ([0x41], 3) := by decide +kernel

theorem test_wd_DV_7 :
    after (loaded 0x0 [0xDD, 0x00, 0x01] { s0 with writeAnswers := [.failed ⟨.output, false, 0, []⟩] }) (fun t => (t.fault, t.regPC)) =
      some (some (.device 1), 3) := by decide +kernel

theorem test_td_DV_5 :
    after (loaded 0x0 [0xE1, 0x00, 0x01] { s0 with regSW := 1, testAnswers := [.available] }) (fun t => t.regSW) =
      some 0xFFFFFF := by decide +kernel

theorem test_td_DV_6 :
    after (loaded 0x0 [0xE1, 0x00, 0x01] { s0 with regSW := 1, testAnswers := [.unavailable] }) (fun t => t.regSW) =
      some 0 := by decide +kernel

theorem test_lps_DV_8 :
    after (loaded 0x0 [0xD3, 0x20, 0x00] s0) (fun t => (t.fault, t.regPC)) =
      some (some (.unimplemented "LPS"), 3) := by decide +kernel

theorem test_sti_DV_9 :
    after (loaded 0x0 [0xD7, 0x20, 0x00] s0) (fun t => (t.fault, t.regPC)) =
      some (some (.unimplemented "STI"), 3) := by decide +kernel

theorem test_ssk_DV_10 :
    after (loaded 0x0 [0xEF, 0x20, 0x00] s0) (fun t => (t.fault, t.regPC)) =
      some (some (.unimplemented "SSK"), 3) := by decide +kernel

/-- The instruction placed by `withFetchWord` is the one the next step runs: LDA #5, bytes 01 00 05. -/
theorem test_with_fetch_word : after (s0.withFetchWord 24 0x050001) (fun t => (t.regA, t.regPC)) = some (5, 3) := by
  decide +kernel

/-- The step after a fault changes nothing (95_test_vectors.md P4). -/
theorem test_latched_fault_stays :
    after { s0 with regA := 7, regPC := 6, fault := some .arithmetic } (fun t => (t.regA, t.regPC, t.fault)) =
      some (7, 6, some .arithmetic) := by decide +kernel

/-- A step whose read is blocked is reported unfinished; with its byte it is `Ok`. -/
theorem test_blocked_read_report :
    after (loaded 0 [0xD9, 0x00, 0x00] { s0 with readAnswers := [.noByteYet] }) State.report = some .unfinished ∧
      after { s0 with waiting := some 0, readAnswers := [.byte 0x41] } (fun t => (t.report, t.regA)) =
        some (.ok, 0x41) := by decide +kernel

/-- A failing test leaves the device as it was (40_decode_and_address.md R118). -/
theorem test_failed_test_leaves_the_device :
    after (loaded 0 [0xE1, 0x00, 0x03] { s0 with testAnswers := [.failed] }) (fun t => (t.fault, t.devices)) =
      some (some (.device 3), []) := by decide +kernel

/-- A T record that runs past the end of memory writes the bytes that fit (R266, 20_memory.md R53). -/
theorem test_text_record_past_the_end :
    let r := hostAct (.loadLine "T0FFFFE03AABBCC".toList) s0
    (r.error, r.state.mem) = (some (.addressRange 0x100000), [(0xFFFFE, 0xAA), (0xFFFFF, 0xBB)]) := by decide +kernel

/-- While a step is blocked the host can stop the clock and do nothing else (20_memory.md R64, 60_exceptions.md R249). -/
theorem test_host_while_blocked :
    (hostAct (.setSpeed 5) { s0 with waiting := some 0 }).error = some .busy ∧
      (hostAct .start { s0 with waiting := some 0 }).error = some .busy ∧
      (hostAct .stop { s0 with waiting := some 0, run := .running 1 }).state.run = .stopped := by decide

/-- The name of file device 0x1A begins with its two digits (60_exceptions.md R248). -/
theorem test_device_file_name : deviceFileName 0x1A = "1A" ++ Config.deviceFileExt := rfl

/-- T and E records (70_reset_and_hazards.md R266). -/
theorem test_object_records :
    parseRecord "T00001003010005".toList = some (.text 0x10 [1, 0, 5]) ∧ parseRecord "E000010".toList = some (.entry 16) ∧
      parseRecord "T00001004010005".toList = none := by decide +kernel

/-! ### Witnesses: the hypotheses of the obligations can be met -/

/-- A Format-4 operand, simple addressing. -/
abbrev f4At (addr : BitVec 20) : Operand := .f4 ⟨true, true, false, false, false⟩ addr

/-- A check or read answers this value. -/
theorem ok_of_toOption {α : Type} {r : Except Fault α} {v : α} (h : r.toOption = some v) : r = .ok v := by
  cases r with
  | ok w => exact congrArg Except.ok (Option.some.inj h)
  | error k => cases h

/-- A check or read answers this fault. -/
theorem error_of_swap {α : Type} {r : Except Fault α} {k : Fault}
    (h : (match r with | .ok _ => none | .error j => some j) = some k) : r = .error k := by
  cases r with
  | ok w => cases h
  | error j => exact congrArg Except.error (Option.some.inj h)

/-- An immediate operand. -/
abbrev imm (v : BitVec 12) : Operand := .f3 ⟨false, true, false, false, false⟩ v

/-- An operand no address resolves from: Format 3, not immediate, b = p = 0. -/
abbrev badOperand : Operand := .f3 ⟨true, true, false, false, false⟩ 0

/-- The fault of `badOperand`. -/
abbrev badOperandFault : Fault := .decodeFailure (.invalidAddressing ⟨true, true, false, false, false⟩)

/-- A state other than reset that meets the invariant. -/
abbrev sInv : State := withBytes 0 [0x01, 0x00, 0x05] { s0 with speed := 1000000000, run := .running 1 }

theorem sInv_inv : sInv.Inv where
  mem_wf := by decide +kernel
  devices_wf := by decide +kernel
  speed_pos := by decide
  speed_le := by decide
  interval_pos := by
    intro n h
    cases h
    decide
  fault_ends_step := by intro h; exact absurd rfl h

theorem witness_DecodeEncodeRoundTrip :
    (Instr.lda (.sic true 0x7FFF)).wellFormed = true ∧ (Instr.ldf (.f3 ⟨false, true, true, true, true⟩ 0xFFF)).wellFormed ∧
      (Instr.td (f4At 0xFFFFF)).wellFormed = true ∧ (Instr.rmo 15 0).wellFormed = true ∧ Instr.tio.wellFormed = true := by
  decide

theorem witness_DecodedBytesAreTheirEncoding :
    decode [0x4F, 0x10, 0x00, 0x00, 0xFF] = .ok (.rsub (f4At 0), [0xFF]) := rfl

theorem witness_LengthFollowsFirstTwoBytes :
    let s := loaded 0xFFFFF [0xFF] s0
    ((classify 0xFF).isNone = true ∧ (classify 0x4F).isSome = true ∧ (classify 0xC0).isSome = true) ∧
      s.fault = none ∧ s.waiting = none ∧ (s.get .pc).toNat ≤ 0xFFFFF ∧
      (classify (s.byteAt (s.get .pc).toNat)).isNone = true :=
  ⟨by decide, rfl, rfl, by decide, by decide +kernel⟩

/-- The last address a three-byte instruction fits at. -/
theorem witness_StepRunsDecodedInstruction :
    let s := loaded 0xFFFFD [0x01, 0x00, 0x05] s0
    s.fault = none ∧ s.waiting = none ∧ decode (s.bytesFrom (s.get .pc).toNat 3) = .ok (.lda (imm 5), []) ∧
      (s.get .pc).toNat + 3 ≤ 0x100000 := ⟨rfl, rfl, rfl, by decide⟩

theorem witness_UnknownOpcodeFaultsAfterOneByte :
    let s := loaded 0xFFFFF [0xFF] s0
    s.fault = none ∧ s.waiting = none ∧ (s.get .pc).toNat ≤ 0xFFFFF ∧ s.byteAt (s.get .pc).toNat = 0xFF ∧
      (classify 0xFF).isNone = true := ⟨rfl, rfl, by decide, by decide +kernel, by decide⟩

theorem witness_FetchAtUnmappedPCFaults :
    let s := { s0 with regPC := 0x100000 }
    let t := { s0 with regPC := 0xFFFFFF }
    (s.fault = none ∧ s.waiting = none ∧ 0xFFFFF < s.read .pc) ∧ (t.fault = none ∧ t.waiting = none ∧ t.read .pc < 0) :=
  ⟨⟨rfl, rfl, by decide⟩, rfl, rfl, by decide⟩

theorem witness_FetchPastEndOfMemoryFaults :
    let s := loaded 0xFFFFE [0x4F, 0x10] s0
    s.fault = none ∧ s.waiting = none ∧ (s.get .pc).toNat ≤ 0xFFFFF ∧
      decode (s.bytesFrom (s.get .pc).toNat (0x100000 - (s.get .pc).toNat)) = .error .truncated :=
  ⟨rfl, rfl, by decide, rfl⟩

theorem witness_LatchedFaultFreezesTheCore :
    let s := { s0 with fault := some .arithmetic }
    (∃ t, step (loaded 0 [0x25, 0x00, 0x00] s0) = .next t ∧ t.report = .halt .arithmetic) ∧
      s.fault = some .arithmetic ∧ s.waiting = none ∧ HostAction.setReg .pc 0 ≠ .reset :=
  ⟨⟨_, rfl, rfl⟩, rfl, rfl, by decide⟩

theorem witness_WaitingStepResumes :
    let left : Device := ⟨.file, true, 1, [2]⟩
    let s := { s0 with waiting := some 0, readAnswers := [.noByteYet, .byte 0x41, .endOfStream, .failed left] }
    let s1 := s.readAnswered
    let s2 := s1.readAnswered
    let s3 := s2.readAnswered
    s.fault = none ∧ s.waiting = some 0 ∧ (s.device 0).kind ≠ .output ∧ (s.device 0).kind ≠ .error ∧
      s.readAnswer 0 = .noByteYet ∧ s1.readAnswer 0 = .byte 0x41 ∧ s2.readAnswer 0 = .endOfStream ∧
      s3.readAnswer 0 = .failed left ∧ s3.fault = none ∧ s3.waiting = some 0 ∧ (s3.device 0).kind = .input := by decide

theorem witness_LatchedFaultsArePossible :
    let s := loaded 0 [0xAC, 0x70] s0
    (∀ k, s.fault = some k → k.possible = true) ∧ ∃ t, step s = .next t ∧ t.fault = some (.registerIndex 7) :=
  ⟨fun _ h => (nomatch h), _, rfl, rfl⟩

theorem witness_StepKeepsInvariant : sInv.Inv ∧ ∃ t, step sInv = .next t := ⟨sInv_inv, _, rfl⟩

theorem witness_HostActionKeepsInvariant : sInv.Inv := sInv_inv

theorem witness_ReachableStatesMeetInvariant : Reachable (clockStart State.reset) := .host .start .reset

theorem witness_FaultsArePrecise :
    let s := loaded 0 [0x25, 0x00, 0x00] s0
    let w := loaded 0 [0xDD, 0x00, 0x01] { s0 with writeAnswers := [.failed ⟨.output, false, 0, []⟩] }
    let r := { s0 with waiting := some 0, readAnswers := [.failed ⟨.input, false, 0, []⟩] }
    (s.fault = none ∧ s.waiting = none ∧ decode (s.bytesFrom (s.get .pc).toNat 3) = .ok (.div (imm 0), []) ∧
      ∃ t, step s = .next t ∧ t.fault = some .arithmetic) ∧
    (w.fault = none ∧ ∃ t, step w = .next t ∧ t.fault = some (.device 1)) ∧
    (r.fault = none ∧ ∃ t, step r = .next t ∧ t.fault = some (.device 0)) :=
  ⟨⟨rfl, rfl, rfl, _, rfl, rfl⟩, ⟨rfl, _, rfl, rfl⟩, rfl, _, rfl, rfl⟩

theorem witness_StepLeavesTheClockAlone : Reachable (clockSetSpeed 5 State.reset) ∧ ∃ t, step sInv = .next t :=
  ⟨.host (.setSpeed 5) .reset, _, rfl⟩

/-- J * (R211); RMO A, PC with A its own address, CLEAR PC at 0 (R140); RSUB with L its own address;
JSUB * with L its return address; a fault latched. -/
theorem witness_FinishedStateIsAFixedPoint :
    (loaded 6 [0x3F, 0x2F, 0xFD] s0).finished = true ∧
    (loaded 0x40 [0xAC, 0x08] { s0 with regA := 0x40 }).finished = true ∧
    (loaded 0 [0xB4, 0x80] s0).finished = true ∧
    (loaded 0x15 [0x4F, 0, 0] { s0 with regL := 0x15 }).finished = true ∧
    (loaded 6 [0x4B, 0x2F, 0xFD] { s0 with regL := 9 }).finished = true ∧
    ({ s0 with fault := some .arithmetic } : State).finished = true := by
  decide +kernel

/-- Not finished: a jump elsewhere, by the written value and by JEQ not taken, and JSUB * before L holds its return address. -/
theorem test_not_finished :
    (loaded 0x40 [0xAC, 0x08] { s0 with regA := 0x41 }).finished = false ∧
    (loaded 6 [0x33, 0x2F, 0xFD] { s0 with regSW := 1 }).finished = false ∧
    (loaded 6 [0x4B, 0x2F, 0xFD] s0).finished = false := by
  decide +kernel

theorem witness_RegisterReadAfterWrite : (Reg.a : Reg) ≠ .sw := by decide

/-- The last legal address and the first illegal one of each access width, and a negative address. -/
theorem witness_AccessRangeRule :
    (∃ v, memRead1 s0 0xFFFFF = .ok v) ∧ memRead1 s0 0x100000 = .error (.addressRange 0x100000) ∧
    (∃ v, memRead3 s0 0xFFFFD = .ok v) ∧ memRead3 s0 0xFFFFE = .error (.addressRange 0xFFFFE) ∧
    (∃ v, memRead6 s0 0xFFFFA = .ok v) ∧ memRead6 s0 0xFFFFB = .error (.addressRange 0xFFFFB) ∧
    (∃ t, memWrite s0 0xFFFFD [1, 2, 3] = .ok t) ∧ memWrite s0 (-1) [1] = .error (.addressRange (-1)) :=
  ⟨⟨_, rfl⟩, rfl, ⟨_, rfl⟩, rfl, ⟨_, rfl⟩, rfl, ⟨_, rfl⟩, rfl⟩

theorem witness_WordRoundTripIsBigEndian :
    (∃ t, memWrite s0 0xFFFFD (bytesOfWord 0xABCDEF) = .ok t) ∧ (∃ t, memWrite s0 0 (bytesOfWord 0) = .ok t) :=
  ⟨⟨_, rfl⟩, ⟨_, rfl⟩⟩

/-- Each clause: an immediate, a readable word and byte at the end of memory, one past it, an address that does not
resolve. -/
theorem witness_OperandValues :
    isImmediate (imm 0xFFF) = true ∧ isImmediate (f4At 0xFFFFD) = false ∧ resolve s0 (f4At 0xFFFFD) = .ok 0xFFFFD ∧
      resolve s0 (f4At 0xFFFFE) = .ok 0xFFFFE ∧ resolve s0 (f4At 0xFFFFF) = .ok 0xFFFFF ∧
      resolve { s0 with regX := 1 } (.f4 ⟨true, true, true, false, false⟩ 0xFFFFF) = .ok 0x100000 ∧
      resolve s0 badOperand = .error badOperandFault := ⟨rfl, rfl, rfl, rfl, rfl, rfl, rfl⟩

theorem witness_WordLoadResult :
    operandWord (withBytes 0xFFFFD [0xFF, 0xFF, 0xFE] s0) (f4At 0xFFFFD) = .ok (-2) ∧ operandWord s0 (imm 0xFFF) = .ok 4095 :=
  ⟨ok_of_toOption (by decide +kernel), ok_of_toOption (by decide +kernel)⟩

theorem witness_ByteLoadResult :
    operandByte (withBytes 0xFFFFF [0x23] s0) (f4At 0xFFFFF) = .ok 0x23 ∧ operandByte s0 (imm 0x141) = .ok 0x41 :=
  ⟨ok_of_toOption (by decide +kernel), ok_of_toOption (by decide +kernel)⟩

theorem witness_FloatLoadResult :
    isImmediate (f4At 0xFFFFA) = false ∧ resolve s0 (f4At 0xFFFFA) = .ok 0xFFFFA ∧ (0xFFFFA : Int) + 5 ≤ 0xFFFFF :=
  ⟨rfl, rfl, by decide⟩

theorem witness_ImmediateFloatLoadTraps : isImmediate (imm 5) = true := rfl

theorem witness_WordStoreResult :
    resolve s0 (f4At 0xFFFFD) = .ok 0xFFFFD ∧ resolve s0 (imm 0) = .ok 0 ∧ (0xFFFFD : Int) + 2 ≤ 0xFFFFF :=
  ⟨rfl, rfl, by decide⟩

theorem witness_ByteAndFloatStoreResult :
    resolve s0 (f4At 0xFFFFF) = .ok 0xFFFFF ∧ resolve s0 (f4At 0xFFFFA) = .ok 0xFFFFA ∧ (0xFFFFA : Int) + 5 ≤ 0xFFFFF :=
  ⟨rfl, rfl, by decide⟩

theorem witness_ArithmeticResult : operandWord (withBytes 3 [0xFF, 0xFF, 0xFE] s0) (f4At 3) = .ok (-2) :=
  ok_of_toOption (by decide +kernel)

theorem witness_DivisionResult :
    operandWord (withBytes 3 [0xFF, 0xFF, 0xFF] s0) (f4At 3) = .ok (-1) ∧ (-1 : Int) ≠ 0 :=
  ⟨ok_of_toOption (by decide +kernel), by decide⟩

theorem witness_DivisionByZeroTraps : operandWord s0 (f4At 3) = .ok 0 ∧ operandWord s0 (imm 0) = .ok 0 ∧ s0.read .s = 0 ∧
    (∃ t, exec (.div (imm 0)) s0 = .next t ∧ t.fault = some .arithmetic) ∧ s0.fault ≠ some .arithmetic :=
  ⟨ok_of_toOption (by decide +kernel), ok_of_toOption (by decide +kernel), by decide +kernel, ⟨_, rfl, rfl⟩, by decide⟩

theorem witness_LogicResult : operandWord (withBytes 3 [0xFF, 0x00, 0xFF] s0) (f4At 3) = .ok (-65281) :=
  ok_of_toOption (by decide +kernel)

theorem witness_CompareResult : operandWord s0 (imm 0xFFF) = .ok 4095 :=
  ok_of_toOption (by decide +kernel)

theorem witness_IncrementAndCompareResult :
    operandWord (withBytes 5 [0, 0, 3] { s0 with regX := 2 }) (.f4 ⟨true, true, true, false, false⟩ 3) = .ok 3 :=
  ok_of_toOption (by decide +kernel)

/-- A target below memory and one above it. -/
theorem witness_JumpResult :
    resolve s0 (.f3 ⟨true, true, false, false, true⟩ 0xFFD) = .ok (-3) ∧
      resolve (withBytes 3 [0x10, 0, 0] s0) (.f4 ⟨true, false, false, false, false⟩ 3) = .ok 0x100000 :=
  ⟨ok_of_toOption (by decide +kernel), ok_of_toOption (by decide +kernel)⟩

theorem witness_CallAndReturnResult : resolve s0 (f4At 0x200) = .ok 0x200 := rfl

theorem witness_RegisterDivisionResult : ({ s0 with regS := 0xFFFFFF } : State).read .s ≠ 0 := by decide

theorem witness_BadRegisterIndexTraps :
    slotOf 6 = none ∧ slotOf 7 = none ∧ slotOf 10 = none ∧ slotOf 15 = none ∧ slotOf 9 ≠ none ∧ slotOf 0 ≠ none := by decide

theorem witness_OperandFaultsTrap :
    operandWord s0 badOperand = .error badOperandFault ∧ operandByte s0 badOperand = .error badOperandFault ∧
      resolve s0 badOperand = .error badOperandFault ∧
      resolve s0 (.f4 ⟨true, false, false, false, false⟩ 0xFFFFE) = .error (.addressRange 0xFFFFE) :=
  ⟨error_of_swap (by decide), error_of_swap (by decide), rfl, error_of_swap (by decide +kernel)⟩

/-- The first address out of range for each width, and a negative address. -/
theorem witness_OutOfRangeStoresTrap :
    resolve s0 (f4At 0xFFFFE) = .ok 0xFFFFE ∧ (0xFFFFF : Int) < 0xFFFFE + 2 ∧
      resolve { s0 with regX := 1 } (.f4 ⟨true, true, true, false, false⟩ 0xFFFFF) = .ok 0x100000 ∧
      resolve s0 (f4At 0xFFFFB) = .ok 0xFFFFB ∧ (0xFFFFF : Int) < 0xFFFFB + 5 ∧
      resolve s0 (.f3 ⟨true, true, false, false, true⟩ 0xFFF) = .ok (-1) ∧ isImmediate (f4At 0xFFFFB) = false :=
  ⟨rfl, by decide, rfl, rfl, by decide, rfl, rfl⟩

theorem witness_ReadDeviceResult :
    let left : Device := ⟨.file, true, 1, [2]⟩
    let s := { s0 with readAnswers := [.byte 0x41, .endOfStream, .noByteYet, .failed left] }
    let s1 := s.readAnswered
    let s2 := s1.readAnswered
    let s3 := s2.readAnswered
    operandByte s (imm 1) = .ok 1 ∧ (s.device 1).kind = .output ∧ (s.device 2).kind = .error ∧
      operandByte s (imm 0x1FF) = .ok 0xFF ∧ (s.device 0xFF).kind = .file ∧ s.readAnswer 0xFF = .byte 0x41 ∧
      s1.readAnswer 0xFF = .endOfStream ∧ s2.readAnswer 0xFF = .noByteYet ∧ s3.readAnswer 0xFF = .failed left :=
  ⟨rfl, by decide, by decide, rfl, by decide, rfl, rfl, rfl, rfl⟩

theorem witness_WriteDeviceResult :
    let s := { s0 with regA := 0x123441, writeAnswers := [.accepted] }
    operandByte s (imm 0) = .ok 0 ∧ (s.device 0).kind = .input ∧ operandByte s (imm 1) = .ok 1 ∧
      (0x41 : Byte).toNat = (s.get .a).toNat % 256 ∧ (s.device 1).kind ≠ .input ∧ s.writeAnswer 1 0x41 = .accepted :=
  ⟨rfl, by decide, rfl, by decide, by decide, rfl⟩

theorem witness_TestDeviceResult :
    let s := { s0 with testAnswers := [.available, .unavailable] }
    operandByte s (imm 3) = .ok 3 ∧ s.testAnswer 3 = .available ∧ s.testAnswered.testAnswer 3 = .unavailable :=
  ⟨rfl, rfl, rfl⟩

theorem witness_DeviceFailureTraps :
    let left : Device := ⟨.file, true, 1, [2]⟩
    let s := { s0 with readAnswers := [.failed left], writeAnswers := [.failed left], testAnswers := [.failed] }
    operandByte s (imm 3) = .ok 3 ∧ (s.device 3).kind = .file ∧ s.readAnswer 3 = .failed left ∧
      (0 : Byte).toNat = (s.get .a).toNat % 256 ∧ s.writeAnswer 3 0 = .failed left ∧ s.testAnswer 3 = .failed :=
  ⟨rfl, by decide, rfl, by decide, rfl, rfl⟩

theorem witness_InstructionsStayInTheirWriteSets :
    (∃ t, exec (.jsub (f4At 0x200)) s0 = .next t) ∧ ∃ t, exec (.tixr 5 0) s0 = .next t := ⟨⟨_, rfl⟩, ⟨_, rfl⟩⟩

theorem witness_OnlyTheirInstructionsChangeMemoryFAndDevices :
    (∃ t, exec (.lda (imm 5)) s0 = .next t) ∧ storesToMemory (.lda (imm 5)) = false ∧
      reachesDevices (.lda (imm 5)) = false := ⟨⟨_, rfl⟩, rfl, rfl⟩

theorem witness_ClockControllerLaws :
    let s := { s0 with speed := 3 }
    let t := { s0 with speed := 1000000000, run := .running 1 }
    0 < 1 ∧ (1 ≤ 1 ∧ 1 ≤ 1000000000) ∧ (1 ≤ 1000000000 ∧ 1000000000 ≤ 1000000000) ∧ 1000000000 < 1000000001 ∧
      (1 ≤ s.speed ∧ s.speed ≤ 1000000000) ∧ (t.speed ∣ 1000000000) ∧ clockIsRunning t = true ∧
      clockIsRunning s = false := by
  decide

theorem witness_ObjectRecordsLoad :
    let bs : List Byte := [1, 0, 5]
    let w := { s0 with waiting := some 0 }
    s0.waiting = none ∧ bs.length < 256 ∧ 0xFFFFD + bs.length ≤ 0x100000 ∧
      (0xFFFFE < 16777216 ∧ 0x100000 < 0xFFFFE + bs.length ∧ bs ≠ []) ∧ 0xFFFFFF < 16777216 ∧
      wellFormedRecord "T00001004010005".toList = false ∧ wellFormedRecord "T00001003010005".toList = true ∧
      wellFormedRecord [] = false ∧ wellFormedRecord "E00001".toList = false ∧ 2 ≠ bs.length ∧
      w.waiting = some 0 ∧ HostAction.reset ≠ .stop :=
  ⟨rfl, by decide, by decide, by decide, by decide, by decide +kernel, by decide +kernel, rfl, by decide +kernel,
    by decide, rfl, by decide⟩

/-- The last legal address and the first illegal one of each width, and a negative one. -/
theorem witness_HostAccessesBetweenSteps :
    let w := { s0 with waiting := some 0 }
    s0.waiting = none ∧ w.waiting = some 0 ∧
      ((0 : Int) ≤ 0xFFFFF ∧ (0xFFFFF : Int) ≤ 0xFFFFF) ∧ ¬((0 : Int) ≤ 0x100000 ∧ (0x100000 : Int) ≤ 0xFFFFF) ∧
      ((0 : Int) ≤ 0xFFFFD ∧ (0xFFFFD : Int) + 2 ≤ 0xFFFFF) ∧ ¬((0 : Int) ≤ 0xFFFFE ∧ (0xFFFFE : Int) + 2 ≤ 0xFFFFF) ∧
      ((0 : Int) ≤ 0xFFFFA ∧ (0xFFFFA : Int) + 5 ≤ 0xFFFFF) ∧ ¬((0 : Int) ≤ 0xFFFFB ∧ (0xFFFFB : Int) + 5 ≤ 0xFFFFF) ∧
      ¬((0 : Int) ≤ -1 ∧ (-1 : Int) ≤ 0xFFFFF) ∧
      (hostAct (.writeByte 0xFFFFF 1) s0).error = none ∧
      (hostAct (.writeByte 0x100000 1) s0).error = some (.addressRange 0x100000) ∧
      (hostAct (.writeWord 0xFFFFD 1) s0).error = none ∧
      (hostAct (.writeWord 0xFFFFE 1) s0).error = some (.addressRange 0xFFFFE) ∧
      (hostAct (.writeFloat 0xFFFFA ⟨1, 2, 3, 4, 5, 6⟩) s0).error = none ∧
      (hostAct (.writeFloat 0xFFFFB ⟨1, 2, 3, 4, 5, 6⟩) s0).error = some (.addressRange 0xFFFFB) := by
  decide +kernel

end Sys2Proof.Tests.Slice0
end

section
/-! SUPPORT. The integer slots: what a write leaves to be read (10_state.md R20 to R22). -/

namespace Sys2Proof.Machine

/-- An integer written to a slot reads back as its representative in the signed range. -/
theorem s24_trunc24_eq (v : Int) : s24 (trunc24 v) = (v + 8388608) % 16777216 - 8388608 := by
  have h := trunc24_toNat v
  unfold s24
  split <;> omega

/-- The register check of Format 2 lets exactly the named slots pass. -/
theorem slotOf_of_checkReg {mn : String} {k : BitVec 4} {r : Reg} (h : checkReg mn k = .ok r) : slotOf k = some r := by
  unfold checkReg at h
  unfold slotOf
  split at h <;> simp_all

/-- Settles O22: the register write law with the arithmetic of `trunc24` and `s24`. -/
theorem registerReadAfterWrite : Obligations.RegisterReadAfterWrite := by
  intro s r q v
  refine ⟨?_, ?_, (s24_bounds _).1, (s24_bounds _).2, fun hq => ?_⟩
  · rw [State.get_write, if_pos rfl, trunc24_toNat]
  · rw [State.read_write, if_pos rfl, s24_trunc24_eq]
  · rw [State.read_write, if_neg hq]

end Sys2Proof.Machine
end

section
/-! SUPPORT. The invariant: at reset, under each operation on the state, and under the actions of the host. -/

namespace Sys2Proof.Machine

theorem initialSpeedHz_bounds : 1 ≤ Config.initialSpeedHz ∧ Config.initialSpeedHz ≤ Config.maxRate := by
  have := Config.initialSpeedLessOne.isLt
  unfold Config.initialSpeedHz Config.maxRate
  omega

theorem clampSpeed_bounds (hz : Nat) : 1 ≤ clampSpeed hz ∧ clampSpeed hz ≤ Config.maxRate := by
  unfold clampSpeed Config.maxRate
  split
  · omega
  · split <;> omega

theorem one_le_tickInterval (hz : Nat) : 1 ≤ tickInterval hz := by
  have h : 1 ≤ Config.maxRate / clampSpeed hz :=
    (Nat.one_le_div_iff (clampSpeed_bounds hz).1).2 (clampSpeed_bounds hz).2
  unfold tickInterval
  split
  · exact h
  · split <;> omega

/-- A slot of the device table at reset holds the device construction puts there. -/
@[simp] theorem device_reset (d : Byte) : State.reset.device d = standardDevice d.toNat := rfl

@[simp] theorem read_reset (r : Reg) : State.reset.read r = 0 := by cases r <;> rfl

/-- Settles O19. -/
theorem resetValues : Obligations.ResetValues := by
  refine ⟨read_reset, rfl, fun _ => rfl, rfl, rfl, rfl, initialSpeedHz_bounds.1, initialSpeedHz_bounds.2,
    rfl, rfl, rfl, fun d hd => ?_, fun _ => rfl⟩
  have h0 : d.toNat ≠ 0 := by omega
  have h1 : d.toNat ≠ 1 := by omega
  have h2 : d.toNat ≠ 2 := by omega
  simp [standardDevice, h0, h1, h2]

theorem inv_reset : State.reset.Inv where
  mem_wf := rfl
  devices_wf := rfl
  speed_pos := initialSpeedHz_bounds.1
  speed_le := initialSpeedHz_bounds.2
  interval_pos := by intro n h; cases h
  fault_ends_step := fun _ => rfl

/-- Settles O15. -/
theorem resetMeetsInvariant : Obligations.ResetMeetsInvariant := inv_reset

/-- Where the clock is left alone, the rest of the invariant is what has to be kept. -/
theorem State.Inv.of_sameClock {s t : State} (h : s.Inv) (hrun : t.run = s.run) (hspeed : t.speed = s.speed)
    (hmem : t.mem.wf = true) (hdev : DeviceTable.wf t.devices = true) (hfault : t.fault ≠ none → t.waiting = none) :
    t.Inv where
  mem_wf := hmem
  devices_wf := hdev
  speed_pos := by rw [hspeed]; exact h.speed_pos
  speed_le := by rw [hspeed]; exact h.speed_le
  interval_pos n hn := h.interval_pos n (by rw [← hrun, hn])
  fault_ends_step := hfault

theorem State.Inv.set {s : State} (h : s.Inv) (r : Reg) (w : Word) : (s.set r w).Inv :=
  h.of_sameClock (by simp) (by simp) (by simpa using h.mem_wf) (by simpa using h.devices_wf)
    (by simpa using h.fault_ends_step)

theorem State.Inv.write {s : State} (h : s.Inv) (r : Reg) (v : Int) : (s.write r v).Inv := h.set r (trunc24 v)

theorem State.Inv.setF {s : State} (h : s.Inv) (f : FReg) : (s.setF f).Inv :=
  h.of_sameClock rfl rfl h.mem_wf h.devices_wf h.fault_ends_step

theorem State.Inv.setMem {s : State} (h : s.Inv) {m : Memory} (hm : m.wf = true) : (s.setMem m).Inv :=
  h.of_sameClock rfl rfl hm h.devices_wf h.fault_ends_step

theorem State.Inv.setDevice {s : State} (h : s.Inv) (d : Byte) (dev : Device) : (s.setDevice d dev).Inv :=
  h.of_sameClock rfl rfl h.mem_wf (State.setDevice_wf h.devices_wf d dev) h.fault_ends_step

/-- A fault can be latched where no read is waited on. -/
theorem State.Inv.setFault {s : State} (h : s.Inv) (hw : s.waiting = none) (k : Option Fault) : (s.setFault k).Inv :=
  h.of_sameClock rfl rfl h.mem_wf h.devices_wf fun _ => hw

/-- A read can be waited on where no fault is latched. -/
theorem State.Inv.setWaiting {s : State} (h : s.Inv) {w : Option Byte} (hw : s.fault = none ∨ w = none) :
    (s.setWaiting w).Inv :=
  h.of_sameClock rfl rfl h.mem_wf h.devices_wf fun hf => hw.resolve_left hf

/-- Bytes stored in range keep the invariant. -/
theorem State.Inv.writeBytes {s : State} (h : s.Inv) {a : Int} {bs : List Byte} (hr : inRange a bs.length = true) :
    (s.setMem (s.mem.writeBytes a.toNat bs)).Inv := by
  rw [inRange_iff] at hr
  exact h.setMem (Memory.wf_writeBytes h.mem_wf bs (by omega))

theorem State.Inv.deviceStep {s t : State} (h : s.Inv) (hst : DeviceStep s t) : t.Inv := by
  obtain ⟨-, -, hmem, hfault, hwait, hrun, hspeed, hdev⟩ := hst
  refine h.of_sameClock hrun hspeed (by rw [hmem]; exact h.mem_wf) ?_ (by rw [hfault, hwait]; exact h.fault_ends_step)
  rcases hdev with hd | ⟨d, dev, hd⟩ <;> rw [hd]
  · exact h.devices_wf
  · exact State.setDevice_wf h.devices_wf d dev

theorem inv_hostReset (s : State) : (hostReset s).Inv :=
  inv_reset.of_sameClock rfl rfl rfl rfl fun _ => rfl

theorem State.Inv.clockStart {s : State} (h : s.Inv) : (clockStart s).Inv :=
  { h with interval_pos := by intro n hn; cases hn; exact one_le_tickInterval _ }

theorem State.Inv.clockStop {s : State} (h : s.Inv) : (clockStop s).Inv :=
  { h with interval_pos := by intro n hn; cases hn }

theorem State.Inv.clockSetSpeed {s : State} (h : s.Inv) (hz : Nat) : (clockSetSpeed hz s).Inv :=
  { h with speed_pos := (clampSpeed_bounds hz).1, speed_le := (clampSpeed_bounds hz).2 }

theorem State.Inv.hostStore {s : State} (h : s.Inv) (a : Int) (bs : List Byte) : (hostStore a bs s).state.Inv := by
  rcases hostStore_cases a bs s with ⟨-, he⟩ | ⟨hr, he⟩ <;> rw [he]
  · exact h
  · exact h.writeBytes hr

theorem State.Inv.applyRecord {s : State} (h : s.Inv) (r : ObjectRecord) : (applyRecord r s).1.Inv := by
  cases r with
  | text addr bs =>
    have hwf := loadBytes_wf h.mem_wf addr bs
    rw [Machine.applyRecord, loadBytes_eq]
    rw [loadBytes_eq] at hwf
    exact h.setMem hwf
  | entry addr => exact h.write .pc _
  | ignored => exact h

/-- A line of an object program changes what its record does, or nothing where it is malformed. -/
theorem loadLine_cases (line : List Char) (s : State) :
    (loadLine line s).state = s ∨ ∃ r, (loadLine line s).state = (applyRecord r s).1 := by
  unfold loadLine
  split
  · exact .inl rfl
  · exact .inr ⟨_, rfl⟩

theorem State.Inv.loadLine {s : State} (h : s.Inv) (line : List Char) : (loadLine line s).state.Inv := by
  rcases loadLine_cases line s with he | ⟨r, he⟩ <;> rw [he]
  · exact h
  · exact h.applyRecord r

theorem State.Inv.machineAction {s : State} (h : s.Inv) (act : HostAction) : (machineAction act s).state.Inv := by
  cases act with
  | reset => exact inv_hostReset s
  | setReg r v => exact h.write r v
  | setFloatReg f => exact h.setF f
  | writeByte addr v => exact h.hostStore addr [v]
  | writeWord addr w => exact h.hostStore addr (bytesOfWord w)
  | writeFloat addr f => exact h.hostStore addr f.toList
  | replaceDevice d dev => exact h.setDevice d dev
  | loadLine line => exact h.loadLine line
  | start => exact h.clockStart
  | stop => exact h.clockStop
  | setSpeed hz => exact h.clockSetSpeed hz

/-- Settles O16: an action turned away changes nothing, and each action that is made keeps the invariant. -/
theorem hostActionKeepsInvariant : Obligations.HostActionKeepsInvariant := by
  intro s act h
  rcases hostAct_cases act s with he | he <;> rw [he]
  · exact h
  · exact h.machineAction act

end Sys2Proof.Machine
end

section
/-! SUPPORT. What a step is in each state of the latch and of the unfinished read, and the fault latch under steps and
host. -/

namespace Sys2Proof.Machine

theorem step_of_fault {s : State} {k : Fault} (h : s.fault = some k) : step s = .next s := by
  simp [step, h]

theorem step_of_waiting {s : State} {d : Byte} (hf : s.fault = none) (hw : s.waiting = some d) :
    step s = .next (finishRead d s) := by
  simp [step, resumeRead, hf, hw]

theorem step_of_raised {s t : State} {k : Fault} (hf : s.fault = none) (hw : s.waiting = none)
    (h : fetchInstr s = .raised k t) : step s = .next (t.setFault (some k)) := by
  simp [step, hf, hw, h]

theorem step_of_instr {s t : State} {i : Instr} (hf : s.fault = none) (hw : s.waiting = none)
    (h : fetchInstr s = .instr i t) : step s = exec i t := by
  simp [step, hf, hw, h]

/-- All that a step can do: nothing while a fault is latched, one more try of a blocked read, the fault of a fetch, or an
instruction. -/
theorem step_cases (s : State) :
    (s.fault ≠ none ∧ step s = .next s) ∨
      (s.fault = none ∧ ∃ d, s.waiting = some d ∧ step s = .next (finishRead d s)) ∨
      (s.fault = none ∧ s.waiting = none ∧
        ((∃ k t, fetchInstr s = .raised k t ∧ step s = .next (t.setFault (some k))) ∨
          ∃ i t, fetchInstr s = .instr i t ∧ step s = exec i t)) := by
  cases hf : s.fault with
  | some k => exact .inl ⟨by simp, step_of_fault hf⟩
  | none =>
    cases hw : s.waiting with
    | some d => exact .inr (.inl ⟨rfl, d, rfl, step_of_waiting hf hw⟩)
    | none =>
      cases hi : fetchInstr s with
      | raised k t => exact .inr (.inr ⟨rfl, rfl, .inl ⟨k, t, rfl, step_of_raised hf hw hi⟩⟩)
      | instr i t => exact .inr (.inr ⟨rfl, rfl, .inr ⟨i, t, rfl, step_of_instr hf hw hi⟩⟩)

/-- Where the first byte cannot be fetched, no instruction is. -/
theorem fetchInstr_of_error {s : State} {k : Fault} (h : fetchByte s = .error k) : fetchInstr s = .raised k s := by
  simp [fetchInstr, fetchThen, h]

/-- Settles O8: the first fetch meets the fault, with PC still where it was. -/
theorem fetchAtUnmappedPCFaults : Obligations.FetchAtUnmappedPCFaults := by
  intro s hf hw hpc
  rcases fetchByte_cases s with ⟨-, he⟩ | ⟨hr, -, -⟩
  · exact step_of_raised hf hw (fetchInstr_of_error he)
  · rw [inRange_iff, Config.memorySize] at hr
    omega

/-- An object record leaves the latch as it is. -/
theorem applyRecord_fault (r : ObjectRecord) (s : State) : (applyRecord r s).1.fault = s.fault := by
  cases r with
  | text addr bs => rw [applyRecord, loadBytes_eq, State.fault_setMem]
  | entry addr => exact State.fault_write s .pc _
  | ignored => rfl

theorem hostStore_fault (a : Int) (bs : List Byte) (s : State) : (hostStore a bs s).state.fault = s.fault := by
  rcases hostStore_cases a bs s with ⟨-, he⟩ | ⟨-, he⟩ <;> rw [he] <;> rfl

theorem loadLine_fault (line : List Char) (s : State) : (loadLine line s).state.fault = s.fault := by
  rcases loadLine_cases line s with he | ⟨r, he⟩ <;> rw [he]
  exact applyRecord_fault r s

/-- Of the host's actions only reset touches the latch. -/
theorem machineAction_fault {act : HostAction} (ha : act ≠ .reset) (s : State) :
    (machineAction act s).state.fault = s.fault := by
  cases act with
  | reset => exact absurd rfl ha
  | setReg r v => exact State.fault_write s r v
  | writeByte addr v => exact hostStore_fault addr [v] s
  | writeWord addr w => exact hostStore_fault addr (bytesOfWord w) s
  | writeFloat addr f => exact hostStore_fault addr f.toList s
  | loadLine line => exact loadLine_fault line s
  | setFloatReg f | replaceDevice d dev | start | stop | setSpeed hz => rfl

theorem hostAct_fault {act : HostAction} (ha : act ≠ .reset) (s : State) :
    (hostAct act s).state.fault = s.fault := by
  rcases hostAct_cases act s with he | he <;> rw [he]
  · rfl
  · exact machineAction_fault ha s

/-- Between steps a reset by the host clears the latch. -/
theorem hostAct_reset_fault {s : State} (h : s.waiting = none) : (hostAct .reset s).state.fault = none := by
  rw [hostAct_between h]
  rfl

/-- The host latches no fault. -/
theorem fault_of_hostAct_fault {act : HostAction} {s : State} {k : Fault}
    (h : (hostAct act s).state.fault = some k) : s.fault = some k := by
  by_cases ha : act = .reset
  · subst ha
    rcases hostAct_cases .reset s with he | he <;> rw [he] at h
    · exact h
    · cases h
  · rwa [hostAct_fault ha] at h

/-- Settles O10: a halt is reported from the latch (`State.report_eq_halt`), a set latch freezes the step
(`step_of_fault`), and of the host's actions only reset changes it (`hostAct_fault`). -/
theorem latchedFaultFreezesTheCore : Obligations.LatchedFaultFreezesTheCore := by
  refine ⟨rfl, fun s t k _ hk => (State.report_eq_halt t k).1 hk,
    fun s k hk => ⟨step_of_fault hk, (State.report_eq_halt s k).2 hk⟩, fun s k act hk => ⟨?_, fun ha => ?_⟩⟩
  · rintro rfl hw
    exact hostAct_reset_fault hw
  · rw [hostAct_fault ha, hk]

end Sys2Proof.Machine
end

section
/-! SUPPORT. What the host reads and writes between steps (10_state.md R34, 20_memory.md R64, R65). -/

namespace Sys2Proof.Machine

/-- Between steps the host reads the value. -/
theorem hostRead_between {α : Type} {s : State} (h : s.waiting = none) (r : Except HostError α) : hostRead s r = r := by
  simp [hostRead, h]

/-- While a step is blocked the host reads nothing. -/
theorem hostRead_blocked {α : Type} {s : State} {d : Byte} (h : s.waiting = some d) (r : Except HostError α) :
    hostRead s r = .error .busy := by
  simp [hostRead, h]

/-- The byte at an offset into bytes that were written. -/
theorem Memory.read_writeBytes_add (m : Memory) (a : Nat) {bs : List Byte} {k : Nat} (hk : k < bs.length) :
    (m.writeBytes a bs).read (a + k) = bs[k] := by
  rw [Memory.read_writeBytes, dif_pos ⟨by omega, by omega⟩]
  simp

/-- The first of the bytes that were written. -/
theorem Memory.read_writeBytes_head (m : Memory) (a : Nat) (v : Byte) (bs : List Byte) :
    (m.writeBytes a (v :: bs)).read a = v :=
  Memory.read_writeBytes_add m a (bs := v :: bs) (k := 0) (by simp)

/-- Only the bytes from the address on change. -/
theorem sameMemoryOutside_writeBytes (s : State) {a : Int} (ha : 0 ≤ a) (bs : List Byte) :
    SameMemoryOutside a bs.length s (s.setMem (s.mem.writeBytes a.toNat bs)) := by
  intro j hj
  rw [State.byteAt_setMem, Memory.read_writeBytes, dif_neg (by omega)]
  rfl

theorem sameRegsExcept_setMem (rs : List Reg) (s : State) (m : Memory) : SameRegsExcept rs s (s.setMem m) :=
  fun r _ => State.get_setMem s m r

theorem sameRest_setMem (s : State) (m : Memory) : SameRest s (s.setMem m) :=
  ⟨rfl, rfl, rfl, rfl, rfl, rfl, rfl, rfl, rfl⟩

theorem memRead1_writeBytes (s : State) {a : Int} (v : Byte) (h : inRange a 1 = true) :
    memRead1 (s.setMem (s.mem.writeBytes a.toNat [v])) a = .ok v := by
  rw [memRead1, if_pos h, State.byteAt_setMem, Memory.read_writeBytes_head]

theorem memRead3_writeBytes (s : State) {a : Int} (w : Word) (h : inRange a 3 = true) :
    memRead3 (s.setMem (s.mem.writeBytes a.toNat (bytesOfWord w))) a = .ok w := by
  rw [memRead3, if_pos h, State.byteAt_setMem, State.byteAt_setMem, State.byteAt_setMem, bytesOfWord,
    Memory.read_writeBytes_head, Memory.read_writeBytes_add _ _ (by simp), Memory.read_writeBytes_add _ _ (by simp)]
  exact congrArg Except.ok (wordOfBytes_bytesOfWord w)

theorem memRead6_writeBytes (s : State) {a : Int} (f : FReg) (h : inRange a 6 = true) :
    memRead6 (s.setMem (s.mem.writeBytes a.toNat f.toList)) a = .ok f := by
  simp only [memRead6, if_pos h, State.byteAt_setMem, FReg.toList]
  rw [Memory.read_writeBytes_head]
  iterate 5 rw [Memory.read_writeBytes_add _ _ (by simp)]
  rfl

/-- Between steps: a store of the host whose bytes are in range is done, reads back through `rd`, and leaves every other
byte and everything but memory as it was; one that is not is an error with the address, and so is the read. -/
theorem hostStore_spec {α : Type} {s : State} (hw : s.waiting = none) {act : HostAction} {a : Int} {bs : List Byte}
    (hact : machineAction act s = hostStore a bs s) {rd : State → Int → Except Fault α} {v : α}
    (hrd : inRange a bs.length = true → rd (s.setMem (s.mem.writeBytes a.toNat bs)) a = .ok v)
    (herr : inRange a bs.length = false → rd s a = .error (.addressRange a)) :
    if inRange a bs.length = true then
      ∃ t, hostAct act s = { state := t, error := none } ∧ hostRead t (hostAccess a (rd t a)) = .ok v ∧
        SameMemoryOutside a bs.length s t ∧ SameRegsExcept [] s t ∧ t.regF = s.regF ∧ SameRest s t
    else hostAct act s = { state := s, error := some (.addressRange a) } ∧
      hostRead s (hostAccess a (rd s a)) = .error (.addressRange a) := by
  rw [hostAct_between hw, hact]
  rcases hostStore_cases a bs s with ⟨hr, he⟩ | ⟨hr, he⟩ <;> rw [he]
  · rw [if_neg (by simp [hr]), herr hr, hostRead_between hw]
    exact ⟨rfl, rfl⟩
  · have h0 : 0 ≤ a := ((inRange_iff _ _).1 hr).1
    rw [if_pos hr]
    refine ⟨_, rfl, ?_, sameMemoryOutside_writeBytes s h0 bs, sameRegsExcept_setMem [] s _, rfl, sameRest_setMem s _⟩
    rw [hrd hr]
    exact hostRead_between hw _

/-- The range rule for a byte, a word and a float, with the bounds written out (20_memory.md R53). -/
theorem inRange_one_iff (a : Int) : inRange a 1 = true ↔ 0 ≤ a ∧ a ≤ 0xFFFFF := by
  rw [inRange_iff, Config.memorySize]
  omega

theorem inRange_three_iff (a : Int) : inRange a 3 = true ↔ 0 ≤ a ∧ a + 2 ≤ 0xFFFFF := by
  rw [inRange_iff, Config.memorySize]
  omega

theorem inRange_six_iff (a : Int) : inRange a 6 = true ↔ 0 ≤ a ∧ a + 5 ≤ 0xFFFFF := by
  rw [inRange_iff, Config.memorySize]
  omega

/-- Settles O59: the three widths by `hostStore_spec`, the registers and devices by their write laws. -/
theorem hostAccessesBetweenSteps : Obligations.HostAccessesBetweenSteps := by
  intro s
  refine ⟨fun hw => ⟨fun r v => ?_, fun f => ?_, fun a v => ?_, fun a w => ?_, fun a f => ?_, fun d dev => ?_⟩,
    fun d hw => ⟨fun r => hostRead_blocked hw _, hostRead_blocked hw _, fun a =>
      ⟨hostRead_blocked hw _, hostRead_blocked hw _, hostRead_blocked hw _⟩⟩⟩
  · refine ⟨s.write r v, hostAct_between hw _, ?_, fun q hq => ?_, by simp, fun a => by simp, by simp [SameRest]⟩
    · rw [hostReadReg, hostRead_between (by simpa using hw), State.read_write, if_pos rfl]
    · rw [State.get_write, if_neg (by simpa using hq)]
  · exact ⟨s.setF f, hostAct_between hw _, hostRead_between hw _, fun q _ => by simp, fun a => by simp,
      by simp [SameRest]⟩
  · simp only [← inRange_one_iff]
    exact hostStore_spec hw (act := .writeByte a v) rfl (memRead1_writeBytes s v) fun h => by
      simpa [memRead1] using h
  · simp only [← inRange_three_iff]
    exact hostStore_spec hw (act := .writeWord a w) rfl (memRead3_writeBytes s w) fun h => by
      simpa [memRead3] using h
  · simp only [← inRange_six_iff]
    exact hostStore_spec hw (act := .writeFloat a f) rfl (memRead6_writeBytes s f) fun h => by
      simpa [memRead6] using h
  · exact ⟨s.setDevice d dev, hostAct_between hw _, by simp, fun e he => by simp [he], fun q _ => by simp, rfl,
      fun a => by simp⟩

end Sys2Proof.Machine
end

section
/-! SUPPORT. What an instruction can do to the state: one relation, proved once for every instruction, from which the
frames, the invariant and the possible faults are read off. -/

namespace Sys2Proof.Machine

/-- The outcomes an instruction can have: a fault the spec's table has; no change; one or two slots of its write set; F;
bytes of memory in range; or the end of its device operation. -/
inductive Effect (i : Instr) (s : State) : StepResult → Prop where
  | traps (k : Fault) (hk : i.wellFormed = true → k.possible = true) : Effect i s (.next (s.setFault (some k)))
  | keeps : Effect i s (.next s)
  | sets {r : Reg} (hr : r ∈ writeSet i) (w : Word) : Effect i s (.next (s.set r w))
  | setsTwo {r q : Reg} (hr : r ∈ writeSet i) (hq : q ∈ writeSet i) (w v : Word) :
      Effect i s (.next ((s.set r w).set q v))
  | loadsFloat (hi : ∃ m, i = .ldf m) (f : FReg) : Effect i s (.next (s.setF f))
  | stores (hi : storesToMemory i = true) {a : Int} {bs : List Byte} (hr : inRange a bs.length = true) :
      Effect i s (.next (s.setMem (s.mem.writeBytes a.toNat bs)))
  | readsDevice (hi : ∃ m, i = .rd m) (d : Byte) : Effect i s (.next (finishRead d s))
  | writesDevice (hi : ∃ m, i = .wd m) (d v : Byte) : Effect i s (.next (finishWrite d v s))
  | testsDevice (hi : ∃ m, i = .td m) (d : Byte) : Effect i s (.next (finishTest d s))

/-! ### The faults of the shared operations are possible faults -/

theorem inRange_mono {a : Int} {n m : Nat} (hnm : n ≤ m) (h : inRange a n = false) : inRange a m = false := by
  rw [← Bool.not_eq_true, inRange_iff] at h ⊢
  omega

theorem possible_addressRange {a : Int} {n : Nat} (hn : n ≤ 6) (h : inRange a n = false) :
    (Fault.addressRange a).possible = true := by
  simp [Fault.possible, inRange_mono hn h]

theorem possible_of_resolve {s : State} {m : Operand} {k : Fault} (hm : m.wellFormed = true)
    (h : resolve s m = .error k) : k.possible = true := by
  rcases resolve_error h with ⟨fl, disp, rfl, himm, hbp, rfl⟩ | ⟨ta, hr, rfl⟩
  · simp only [isImmediate, Bool.and_eq_false_iff, Bool.not_eq_false'] at himm
    simp only [Operand.wellFormed, Flags.selectsF3F4, Bool.or_eq_true] at hm
    have hn : fl.n = true := by
      rcases himm with hn | hi
      · exact hn
      · exact hm.resolve_right (by simp [hi])
    simp [Fault.possible, hn, hbp]
  · exact possible_addressRange (by decide) hr

theorem possible_of_operandWord {s : State} {m : Operand} {k : Fault} (hm : m.wellFormed = true)
    (h : operandWord s m = .error k) : k.possible = true := by
  rcases operandWord_error h with h | ⟨u, hr, rfl⟩
  · exact possible_of_resolve hm h
  · exact possible_addressRange (by decide) hr

theorem possible_of_operandByte {s : State} {m : Operand} {k : Fault} (hm : m.wellFormed = true)
    (h : operandByte s m = .error k) : k.possible = true := by
  rcases operandByte_error h with h | ⟨u, hr, rfl⟩
  · exact possible_of_resolve hm h
  · exact possible_addressRange (by decide) hr

theorem possible_of_checkReg {mn : String} {r : BitVec 4} {k : Fault} (hmn : (Fault.unimplemented mn).possible = true)
    (h : checkReg mn r = .error k) : k.possible = true := by
  rcases checkReg_error h with ⟨-, rfl⟩ | ⟨hr, rfl⟩
  · exact hmn
  · simpa [Fault.possible] using hr

theorem FetchFault.possible {k : Fault} (h : FetchFault k) : k.possible = true := by
  rcases h with ⟨b1, hc, rfl⟩ | ⟨a, hr, rfl⟩
  · simp [Fault.possible, hc]
  · exact possible_addressRange (by decide) hr

/-! ### The effects of the operations the meanings share -/

/-- What follows a check has its effect, and the fault of a check that fails is a possible one. -/
theorem onOk_effect {α : Type} {i : Instr} {s : State} {r : Except Fault α} {go : α → StepResult}
    (herr : ∀ k, r = .error k → i.wellFormed = true → k.possible = true)
    (hok : ∀ v, r = .ok v → Effect i s (go v)) : Effect i s (onOk r s go) := by
  cases r with
  | error k => exact .traps k (herr k rfl)
  | ok v => exact hok v rfl

theorem unimplemented_effect {i : Instr} {mn : String} (s : State)
    (hmn : (Fault.unimplemented mn).possible = true) : Effect i s (unimplemented mn s) :=
  .traps _ fun _ => hmn

section
variable {i : Instr} {m : Operand} (hm : i.wellFormed = m.wellFormed) (s : State)
include hm

theorem onResolved_effect {go : Int → StepResult} (hok : ∀ u, Effect i s (go u)) :
    Effect i s (onOk (resolve s m) s go) :=
  onOk_effect (fun _ h hi => possible_of_resolve (hm ▸ hi) h) fun u _ => hok u

theorem onOperandWord_effect {go : Int → StepResult} (hok : ∀ v, Effect i s (go v)) :
    Effect i s (onOk (operandWord s m) s go) :=
  onOk_effect (fun _ h hi => possible_of_operandWord (hm ▸ hi) h) fun v _ => hok v

theorem onOperandByte_effect {go : Byte → StepResult} (hok : ∀ v, Effect i s (go v)) :
    Effect i s (onOk (operandByte s m) s go) :=
  onOk_effect (fun _ h hi => possible_of_operandByte (hm ▸ hi) h) fun v _ => hok v

theorem loadWord_effect {r : Reg} (hr : r ∈ writeSet i) : Effect i s (loadWord r m s) :=
  onOperandWord_effect hm s fun v => .sets hr (trunc24 v)

theorem arithA_effect {f : Int → Int → Int} (hr : .a ∈ writeSet i) : Effect i s (arithA f m s) :=
  onOperandWord_effect hm s fun v => .sets hr (trunc24 (f (s.read .a) v))

theorem storeBytes_effect {bs : List Byte} (hlen : bs.length ≤ 6) (hi : storesToMemory i = true) :
    Effect i s (storeBytes bs m s) := by
  refine onResolved_effect hm s fun u => ?_
  rcases memWrite_cases s u bs with ⟨hr, he⟩ | ⟨hr, he⟩ <;> rw [he]
  · exact .traps _ fun _ => possible_addressRange hlen hr
  · exact .stores hi hr

theorem storeWord_effect {r : Reg} (hi : storesToMemory i = true) : Effect i s (storeWord r m s) :=
  storeBytes_effect hm s (by simp) hi

theorem jumpIf_effect {c : Bool} (hr : .pc ∈ writeSet i) : Effect i s (jumpIf c m s) := by
  refine onResolved_effect hm s fun u => ?_
  cases c with
  | true => exact .sets hr (trunc24 u)
  | false => exact .keeps

end

section
variable {i : Instr} {mn : String} (hmn : (Fault.unimplemented mn).possible = true) (s : State)
include hmn

theorem onCheckReg_effect {r : BitVec 4} {go : Reg → StepResult}
    (hok : ∀ p, slotOf r = some p → Effect i s (go p)) : Effect i s (onOk (checkReg mn r) s go) :=
  onOk_effect (fun _ h _ => possible_of_checkReg hmn h) fun p hp => hok p (slotOf_of_checkReg hp)

theorem withRegs_effect {r1 r2 : BitVec 4} {go : Reg → Reg → StepResult}
    (hok : ∀ p q, slotOf r2 = some q → Effect i s (go p q)) : Effect i s (withRegs mn r1 r2 s go) :=
  onCheckReg_effect hmn s fun p _ => onCheckReg_effect hmn s fun q hq => hok p q hq

theorem arithRegs_effect {f : Int → Int → Int} {r1 r2 : BitVec 4} (hw : writeSet i = (slotOf r2).toList) :
    Effect i s (arithRegs mn f r1 r2 s) :=
  withRegs_effect hmn s fun p q hq => .sets (by simp [hw, hq]) (trunc24 (f (s.read q) (s.read p)))

end

/-- A comparison after the increment of X, as TIX and TIXR make it. -/
theorem incrementX_compare_effect {i : Instr} (hw : writeSet i = [.x, .sw]) (s : State) (a b : Int) :
    Effect i s (.next (s.incrementX.compare a b)) :=
  .setsTwo (r := .x) (q := .sw) (by simp [hw]) (by simp [hw]) (trunc24 (s.read .x + 1)) (trunc24 (cmp a b))

/-! ### Every instruction -/

/-- Every instruction, in every state, has one of the outcomes of `Effect`. -/
theorem exec_effect (i : Instr) (s : State) : Effect i s (exec i s) := by
  cases i with
  | lda m | ldx m | ldl m | ldb m | lds m | ldt m => exact loadWord_effect rfl s (.head _)
  | add m | sub m | mul m => exact arithA_effect rfl s (.head _)
  | sta m | stx m | stl m | stb m | sts m | stt m | stsw m => exact storeWord_effect rfl s rfl
  | stch m => exact storeBytes_effect rfl s (by simp) rfl
  | stf m => exact storeBytes_effect rfl s (by simp) rfl
  | j m | jeq m | jgt m | jlt m => exact jumpIf_effect rfl s (.head _)
  | addr r1 r2 | subr r1 r2 | mulr r1 r2 => exact arithRegs_effect rfl s rfl
  | addf | subf | mulf | divf | compf | float | fix | norm | sio | hio | tio | svc | lps | sti | ssk =>
    exact unimplemented_effect s rfl
  | div m =>
    refine onOperandWord_effect rfl s fun v => ?_
    split
    · exact .traps _ fun _ => rfl
    · exact .sets (.head _) (trunc24 (truncDiv (s.read .a) v))
  | and m => exact onOperandWord_effect rfl s fun v => .sets (.head _) _
  | or m => exact onOperandWord_effect rfl s fun v => .sets (.head _) _
  | comp m => exact onOperandWord_effect rfl s fun v => .sets (r := .sw) (.head _) (trunc24 (cmp (s.read .a) v))
  | tix m => exact onOperandWord_effect rfl s fun v => incrementX_compare_effect rfl s _ v
  | jsub m =>
    exact onResolved_effect rfl s fun u =>
      .setsTwo (r := .l) (q := .pc) (.head _) (.tail _ (.head _)) _ (trunc24 u)
  | rsub m => exact .sets (r := .pc) (.head _) _
  | ldch m => exact onOperandByte_effect rfl s fun v => .sets (.head _) _
  | ldf m =>
    change Effect _ s (if isImmediate m then _ else _)
    split
    · exact unimplemented_effect s rfl
    · refine onResolved_effect rfl s fun u => onOk_effect (fun k hk _ => ?_) fun f _ => .loadsFloat ⟨m, rfl⟩ f
      rcases memRead6_cases s u with ⟨hr, he⟩ | ⟨-, he⟩ <;> rw [he] at hk <;> cases hk
      exact possible_addressRange (by decide) hr
  | divr r1 r2 =>
    refine withRegs_effect rfl s fun p q hq => ?_
    split
    · exact .traps _ fun _ => rfl
    · exact .sets (by simp [writeSet, hq]) (trunc24 (truncDiv (s.read q) (s.read p)))
  | compr r1 r2 =>
    exact withRegs_effect rfl s fun p q _ => .sets (r := .sw) (.head _) (trunc24 (cmp (s.read p) (s.read q)))
  | shiftl r1 r2 => exact onCheckReg_effect rfl s fun p hp => .sets (by simp [writeSet, hp]) _
  | shiftr r1 r2 =>
    exact onCheckReg_effect rfl s fun p hp =>
      .sets (by simp [writeSet, hp]) (trunc24 (shiftRightFloor (s.read p) (shiftCount r2)))
  | rmo r1 r2 =>
    exact withRegs_effect rfl s fun p q hq => .sets (by simp [writeSet, hq]) (trunc24 (s.read p))
  | clear r1 r2 => exact onCheckReg_effect rfl s fun p hp => .sets (by simp [writeSet, hp]) (trunc24 0)
  | tixr r1 r2 => exact onCheckReg_effect rfl s fun p _ => incrementX_compare_effect rfl s _ _
  | rd m => exact onOperandByte_effect rfl s fun d => .readsDevice ⟨m, rfl⟩ d
  | wd m => exact onOperandByte_effect rfl s fun d => .writesDevice ⟨m, rfl⟩ d _
  | td m => exact onOperandByte_effect rfl s fun d => .testsDevice ⟨m, rfl⟩ d

end Sys2Proof.Machine
end

section
/-! SUPPORT. What follows from `exec_effect`: the slots an instruction leaves alone, the invariant, the faults it can
latch; and the same of a step. -/

namespace Sys2Proof.Machine

/-! ### The device operations -/

theorem DeviceStep.get {s t : State} (h : DeviceStep s t) (r : Reg) : t.get r = s.get r := h.1 r

theorem DeviceStep.fault {s t : State} (h : DeviceStep s t) : t.fault = s.fault := by
  obtain ⟨-, -, -, hfault, -⟩ := h
  exact hfault

theorem DeviceStep.waiting {s t : State} (h : DeviceStep s t) : t.waiting = s.waiting := by
  obtain ⟨-, -, -, -, hwait, -⟩ := h
  exact hwait

theorem sameRegsExcept_finishRead (d : Byte) (s : State) : SameRegsExcept [.a] s (finishRead d s) := by
  intro r hr
  have ha : r ≠ .a := by simpa using hr
  obtain ⟨t, ht, ⟨v, he⟩ | he | he⟩ := finishRead_cases d s <;> simp [he, ha, ht.get]

theorem sameRegsExcept_finishWrite (d v : Byte) (s : State) : SameRegsExcept [] s (finishWrite d v s) := by
  intro r _
  obtain ⟨t, ht, he | he⟩ := finishWrite_cases d v s <;> simp [he, ht.get]

theorem sameRegsExcept_finishTest (d : Byte) (s : State) : SameRegsExcept [.sw] s (finishTest d s) := by
  intro r hr
  have hsw : r ≠ .sw := by simpa using hr
  obtain ⟨t, ht, ⟨v, he⟩ | he⟩ := finishTest_cases d s <;> simp [he, hsw, ht.get]

theorem finishRead_fault (d : Byte) (s : State) :
    (finishRead d s).fault = s.fault ∨ (finishRead d s).fault = some (.device d) := by
  obtain ⟨t, ht, ⟨v, he⟩ | he | he⟩ := finishRead_cases d s <;> simp [he, ht.fault]

theorem finishWrite_fault (d v : Byte) (s : State) :
    (finishWrite d v s).fault = s.fault ∨ (finishWrite d v s).fault = some (.device d) := by
  obtain ⟨t, ht, he | he⟩ := finishWrite_cases d v s <;> simp [he, ht.fault]

theorem finishTest_fault (d : Byte) (s : State) :
    (finishTest d s).fault = s.fault ∨ (finishTest d s).fault = some (.device d) := by
  obtain ⟨t, ht, ⟨v, he⟩ | he⟩ := finishTest_cases d s <;> simp [he, ht.fault]

theorem State.Inv.finishRead {s : State} (h : s.Inv) (hf : s.fault = none) (d : Byte) : (finishRead d s).Inv := by
  obtain ⟨t, ht, ⟨v, he⟩ | he | he⟩ := finishRead_cases d s <;> rw [he]
  · exact ((h.deviceStep ht).set .a _).setWaiting (.inr rfl)
  · exact (h.deviceStep ht).setWaiting (.inl (by rw [ht.fault, hf]))
  · exact ((h.deviceStep ht).setWaiting (.inr rfl)).setFault rfl _

theorem State.Inv.finishWrite {s : State} (h : s.Inv) (hw : s.waiting = none) (d v : Byte) :
    (finishWrite d v s).Inv := by
  obtain ⟨t, ht, he | he⟩ := finishWrite_cases d v s <;> rw [he]
  · exact h.deviceStep ht
  · exact (h.deviceStep ht).setFault (by rw [ht.waiting, hw]) _

theorem State.Inv.finishTest {s : State} (h : s.Inv) (hw : s.waiting = none) (d : Byte) : (finishTest d s).Inv := by
  obtain ⟨t, ht, ⟨v, he⟩ | he⟩ := finishTest_cases d s <;> rw [he]
  · exact (h.deviceStep ht).write .sw v
  · exact (h.deviceStep ht).setFault (by rw [ht.waiting, hw]) _

/-! ### An instruction -/

theorem effect_of_exec {i : Instr} {s t : State} (h : exec i s = .next t) : Effect i s (.next t) :=
  h ▸ exec_effect i s

/-- Settles O55: each outcome of `Effect` writes slots of the write set only. -/
theorem instructionsStayInTheirWriteSets : Obligations.InstructionsStayInTheirWriteSets := by
  intro i s t h r hr
  cases effect_of_exec h with
  | traps k => exact State.get_setFault s _ r
  | keeps => rfl
  | sets hq w => exact State.get_set_ne s w (ne_of_mem_of_not_mem hq hr).symm
  | setsTwo hp hq w v =>
    rw [State.get_set_ne _ v (ne_of_mem_of_not_mem hq hr).symm, State.get_set_ne s w (ne_of_mem_of_not_mem hp hr).symm]
  | loadsFloat hi f => exact State.get_setF s f r
  | stores hi hrange => exact State.get_setMem s _ r
  | readsDevice hi d =>
    obtain ⟨m, rfl⟩ := hi
    exact sameRegsExcept_finishRead d s r hr
  | writesDevice hi d v => exact sameRegsExcept_finishWrite d v s r (by simp)
  | testsDevice hi d =>
    obtain ⟨m, rfl⟩ := hi
    exact sameRegsExcept_finishTest d s r hr

/-- An instruction that starts with no fault latched and nothing waited on keeps the invariant. -/
theorem State.Inv.exec {i : Instr} {s t : State} (h : s.Inv) (hf : s.fault = none) (hw : s.waiting = none)
    (he : exec i s = .next t) : t.Inv := by
  cases effect_of_exec he with
  | traps k => exact h.setFault hw _
  | keeps => exact h
  | sets hq w => exact h.set _ w
  | setsTwo hp hq w v => exact (h.set _ w).set _ v
  | loadsFloat hi f => exact h.setF f
  | stores hi hrange => exact h.writeBytes hrange
  | readsDevice hi d => exact h.finishRead hf d
  | writesDevice hi d v => exact h.finishWrite hw d v
  | testsDevice hi d => exact h.finishTest hw d

/-- The latch after a well-formed instruction: as it was, or a possible fault. -/
theorem exec_fault {i : Instr} {s t : State} (hi : i.wellFormed = true) (he : exec i s = .next t) :
    t.fault = s.fault ∨ ∃ k, t.fault = some k ∧ k.possible = true := by
  cases effect_of_exec he with
  | traps k hk => exact .inr ⟨k, rfl, hk hi⟩
  | sets hq w => exact .inl (State.fault_set s _ w)
  | setsTwo hp hq w v => exact .inl ((State.fault_set _ _ v).trans (State.fault_set s _ w))
  | keeps | loadsFloat | stores => exact .inl rfl
  | readsDevice _ d => exact (finishRead_fault d s).imp_right fun h => ⟨_, h, rfl⟩
  | writesDevice _ d v => exact (finishWrite_fault d v s).imp_right fun h => ⟨_, h, rfl⟩
  | testsDevice _ d => exact (finishTest_fault d s).imp_right fun h => ⟨_, h, rfl⟩

/-! ### A step -/

/-- A fetched instruction is well formed, and its fetch wrote PC only. -/
theorem fetchInstr_instr {s t : State} {i : Instr} (h : fetchInstr s = .instr i t) :
    i.wellFormed = true ∧ ∃ v, t = s.write .pc v := by
  have hin := fetchInstr_within s
  rw [h] at hin
  obtain ⟨hi, j, -, -, ht⟩ := hin
  exact ⟨hi, _, ht⟩

/-- A fetch that ends in a fault raises a possible one, and wrote PC only. -/
theorem fetchInstr_raised {s t : State} {k : Fault} (h : fetchInstr s = .raised k t) :
    k.possible = true ∧ ∃ v, t = s.write .pc v := by
  have hin := fetchInstr_within s
  rw [h] at hin
  obtain ⟨hk, j, -, ht⟩ := hin
  exact ⟨hk.possible, _, ht⟩

theorem State.Inv.step {s t : State} (h : s.Inv) (hst : step s = .next t) : t.Inv := by
  rcases step_cases s with ⟨-, he⟩ | ⟨hf, d, -, he⟩ | ⟨hf, hw, ⟨k, u, hu, he⟩ | ⟨i, u, hu, he⟩⟩ <;> rw [he] at hst
  · cases hst
    exact h
  · cases hst
    exact h.finishRead hf d
  · cases hst
    obtain ⟨-, v, rfl⟩ := fetchInstr_raised hu
    exact (h.write .pc v).setFault (by simpa using hw) _
  · obtain ⟨-, v, rfl⟩ := fetchInstr_instr hu
    exact (h.write .pc v).exec (by simpa using hf) (by simpa using hw) hst

/-- The latch after a step: as it was, or a possible fault. -/
theorem step_fault {s t : State} (hst : step s = .next t) :
    t.fault = s.fault ∨ ∃ k, t.fault = some k ∧ k.possible = true := by
  rcases step_cases s with ⟨-, he⟩ | ⟨-, d, -, he⟩ | ⟨-, -, ⟨k, u, hu, he⟩ | ⟨i, u, hu, he⟩⟩ <;> rw [he] at hst
  · cases hst
    exact .inl rfl
  · cases hst
    exact (finishRead_fault d s).imp_right fun h => ⟨_, h, rfl⟩
  · cases hst
    exact .inr ⟨k, rfl, (fetchInstr_raised hu).1⟩
  · obtain ⟨hi, v, rfl⟩ := fetchInstr_instr hu
    simpa using exec_fault hi hst

/-! ### Every reachable state -/

theorem inv_of_reachable {s : State} (h : Reachable s) : s.Inv := by
  induction h with
  | reset => exact inv_reset
  | step _ hst ih => exact ih.step hst
  | host act _ ih => exact hostActionKeepsInvariant _ act ih
  | environment rs ws ts _ ih => exact ih.of_sameClock rfl rfl ih.mem_wf ih.devices_wf ih.fault_ends_step

theorem possible_of_reachable {s : State} (h : Reachable s) : ∀ k, s.fault = some k → k.possible = true := by
  induction h with
  | reset => intro k hk; cases hk
  | step _ hst ih =>
    intro k hk
    rcases step_fault hst with he | ⟨j, hj, hp⟩
    · exact ih k (he ▸ hk)
    · cases hj.symm.trans hk
      exact hp
  | host act _ ih => exact fun k hk => ih k (fault_of_hostAct_fault hk)
  | environment rs ws ts _ ih => exact ih

/-- Settles O17: both parts by induction on how the state was reached. -/
theorem reachableStatesMeetInvariant : Obligations.ReachableStatesMeetInvariant :=
  fun _ h => ⟨inv_of_reachable h, possible_of_reachable h⟩

end Sys2Proof.Machine
end

section
/-! SUPPORT. The clock controller's state is neither read nor written by a step (10_state.md R31): with other values in it,
fetching and every meaning do the same, and leave those values. -/

namespace Sys2Proof.Machine

/-- The state with other values in RUN and SPEED. -/
def State.withClock (r : RunState) (hz : Nat) (s : State) : State := { s with run := r, speed := hz }

/-- An outcome with other values in RUN and SPEED of its state. -/
def outcomeWithClock (r : RunState) (hz : Nat) : StepResult → StepResult
  | .next t => .next (t.withClock r hz)
  | .fault k => .fault k
  | .refused e => .refused e

/-- The end of a device operation with other values in RUN and SPEED of its state. -/
def DeviceResult.withClock {α : Type} (r : RunState) (hz : Nat) : DeviceResult α → DeviceResult α
  | .done v t => .done v (t.withClock r hz)
  | .blocked t => .blocked (t.withClock r hz)
  | .failed t => .failed (t.withClock r hz)

/-- The end of a fetch with other values in RUN and SPEED of its state. -/
def Fetched.withClock (r : RunState) (hz : Nat) : Fetched → Fetched
  | .instr i t => .instr i (t.withClock r hz)
  | .raised k t => .raised k (t.withClock r hz)

section
variable (rn : RunState) (hz : Nat) (s : State)

/-! ### Operations on the state -/

@[simp] theorem State.get_withClock (r : Reg) : (s.withClock rn hz).get r = s.get r := by cases r <;> rfl

@[simp] theorem State.read_withClock (r : Reg) : (s.withClock rn hz).read r = s.read r :=
  congrArg s24 (State.get_withClock rn hz s r)

@[simp] theorem State.set_withClock (r : Reg) (w : Word) :
    (s.withClock rn hz).set r w = (s.set r w).withClock rn hz := by cases r <;> rfl

@[simp] theorem State.write_withClock (r : Reg) (v : Int) :
    (s.withClock rn hz).write r v = (s.write r v).withClock rn hz := State.set_withClock rn hz s r _

@[simp] theorem State.compare_withClock (a b : Int) :
    (s.withClock rn hz).compare a b = (s.compare a b).withClock rn hz := State.write_withClock rn hz s .sw _

@[simp] theorem State.incrementX_withClock : (s.withClock rn hz).incrementX = s.incrementX.withClock rn hz := rfl

/-- A state with its own values of RUN and SPEED. -/
theorem State.withClock_self : s.withClock s.run s.speed = s := rfl

/-! ### What the meanings share -/

/-- What goes on after a check or read commutes with the clock's values when what follows it does. -/
theorem onOk_withClock {α : Type} (x : Except Fault α) {go go' : α → StepResult}
    (h : ∀ v, go' v = outcomeWithClock rn hz (go v)) :
    onOk x (s.withClock rn hz) go' = outcomeWithClock rn hz (onOk x s go) := by
  cases x with
  | error k => rfl
  | ok v => exact h v

theorem memRead1_withClock (a : Int) : memRead1 (s.withClock rn hz) a = memRead1 s a := rfl

theorem unimplemented_withClock (mn : String) :
    unimplemented mn (s.withClock rn hz) = outcomeWithClock rn hz (unimplemented mn s) := rfl

theorem loadWord_withClock (r : Reg) (m : Operand) :
    loadWord r m (s.withClock rn hz) = outcomeWithClock rn hz (loadWord r m s) :=
  onOk_withClock rn hz s (operandWord s m) fun v => congrArg Host.Outcome.next (State.write_withClock rn hz s r v)

theorem arithA_withClock (f : Int → Int → Int) (m : Operand) :
    arithA f m (s.withClock rn hz) = outcomeWithClock rn hz (arithA f m s) :=
  onOk_withClock rn hz s (operandWord s m) fun _ => rfl

theorem storeBytes_withClock (bs : List Byte) (m : Operand) :
    storeBytes bs m (s.withClock rn hz) = outcomeWithClock rn hz (storeBytes bs m s) := by
  refine onOk_withClock rn hz s (resolve s m) fun u => ?_
  unfold memWrite
  split <;> rfl

theorem storeWord_withClock (r : Reg) (m : Operand) :
    storeWord r m (s.withClock rn hz) = outcomeWithClock rn hz (storeWord r m s) := by
  rw [storeWord, State.get_withClock]
  exact storeBytes_withClock rn hz s _ m

theorem jumpIf_withClock (c : Bool) (m : Operand) :
    jumpIf c m (s.withClock rn hz) = outcomeWithClock rn hz (jumpIf c m s) :=
  onOk_withClock rn hz s (resolve s m) fun _ => by cases c <;> rfl

theorem withRegs_withClock (mn : String) (r1 r2 : BitVec 4) {go go' : Reg → Reg → StepResult}
    (h : ∀ p q, go' p q = outcomeWithClock rn hz (go p q)) :
    withRegs mn r1 r2 (s.withClock rn hz) go' = outcomeWithClock rn hz (withRegs mn r1 r2 s go) :=
  onOk_withClock rn hz s _ fun p => onOk_withClock rn hz s _ fun q => h p q

theorem arithRegs_withClock (mn : String) (f : Int → Int → Int) (r1 r2 : BitVec 4) :
    arithRegs mn f r1 r2 (s.withClock rn hz) = outcomeWithClock rn hz (arithRegs mn f r1 r2 s) :=
  withRegs_withClock rn hz s mn r1 r2 fun p q => by simp [outcomeWithClock]

/-! ### The device operations -/

@[simp] theorem State.device_withClock (d : Byte) : (s.withClock rn hz).device d = s.device d := rfl

theorem State.readAnswer_withClock (d : Byte) : (s.withClock rn hz).readAnswer d = s.readAnswer d := rfl

theorem State.writeAnswer_withClock (d v : Byte) : (s.withClock rn hz).writeAnswer d v = s.writeAnswer d v := rfl

theorem State.testAnswer_withClock (d : Byte) : (s.withClock rn hz).testAnswer d = s.testAnswer d := rfl

theorem devRead_withClock (d : Byte) : devRead d (s.withClock rn hz) = (devRead d s).withClock rn hz := by
  simp only [devRead, State.device_withClock, State.readAnswer_withClock]
  cases (s.device d).kind with
  | output | error => rfl
  | input | file | other => cases s.readAnswer d <;> rfl

theorem devWrite_withClock (d v : Byte) : devWrite d v (s.withClock rn hz) = (devWrite d v s).withClock rn hz := by
  simp only [devWrite, State.device_withClock, State.writeAnswer_withClock]
  cases (s.device d).kind with
  | input => rfl
  | output | error | file | other => cases s.writeAnswer d v <;> rfl

theorem devTest_withClock (d : Byte) : devTest d (s.withClock rn hz) = (devTest d s).withClock rn hz := by
  simp only [devTest, State.device_withClock, State.testAnswer_withClock]
  cases s.testAnswer d <;> rfl

theorem finishRead_withClock (d : Byte) : finishRead d (s.withClock rn hz) = (finishRead d s).withClock rn hz := by
  rw [finishRead, devRead_withClock, finishRead]
  cases devRead d s <;> rfl

theorem finishWrite_withClock (d v : Byte) :
    finishWrite d v (s.withClock rn hz) = (finishWrite d v s).withClock rn hz := by
  rw [finishWrite, devWrite_withClock, finishWrite]
  cases devWrite d v s <;> rfl

theorem finishTest_withClock (d : Byte) : finishTest d (s.withClock rn hz) = (finishTest d s).withClock rn hz := by
  rw [finishTest, devTest_withClock, finishTest]
  rcases devTest d s with ⟨_ | _, t⟩ | t | t <;> rfl

/-! ### An instruction -/

/-- Every instruction does the same whatever RUN and SPEED hold, and leaves them. Its operand is read from the registers
and memory, which are the same in both states. -/
theorem exec_withClock (i : Instr) : exec i (s.withClock rn hz) = outcomeWithClock rn hz (exec i s) := by
  cases i with
  | lda m | ldx m | ldl m | ldb m | lds m | ldt m => exact loadWord_withClock rn hz s _ m
  | add m | sub m | mul m => exact arithA_withClock rn hz s _ m
  | sta m | stx m | stl m | stb m | sts m | stt m | stsw m => exact storeWord_withClock rn hz s _ m
  | stch m | stf m => exact storeBytes_withClock rn hz s _ m
  | j m | jeq m | jgt m | jlt m => exact jumpIf_withClock rn hz s _ m
  | addr r1 r2 | subr r1 r2 | mulr r1 r2 => exact arithRegs_withClock rn hz s _ _ r1 r2
  | addf | subf | mulf | divf | compf | float | fix | norm | sio | hio | tio | svc | lps | sti | ssk =>
    exact unimplemented_withClock rn hz s _
  | div m => exact onOk_withClock rn hz s (operandWord s m) fun v => by split <;> rfl
  | and m | or m | comp m | tix m => exact onOk_withClock rn hz s (operandWord s m) fun _ => rfl
  | jsub m => exact onOk_withClock rn hz s (resolve s m) fun _ => rfl
  | rsub m => rfl
  | ldch m => exact onOk_withClock rn hz s (operandByte s m) fun _ => rfl
  | ldf m =>
    cases himm : isImmediate m with
    | true => simp [exec, execLdf, himm, unimplemented_withClock]
    | false =>
      simp only [exec, execLdf, himm, Bool.false_eq_true, if_false]
      exact onOk_withClock rn hz s (resolve s m) fun u => onOk_withClock rn hz s (memRead6 s u) fun _ => rfl
  | divr r1 r2 =>
    refine withRegs_withClock rn hz s _ r1 r2 fun p q => ?_
    simp only [State.read_withClock, State.write_withClock]
    split <;> rfl
  | compr r1 r2 | rmo r1 r2 => exact withRegs_withClock rn hz s _ r1 r2 fun p q => by simp [outcomeWithClock]
  | shiftl r1 r2 | shiftr r1 r2 | clear r1 r2 | tixr r1 r2 =>
    exact onOk_withClock rn hz s _ fun p => by simp [outcomeWithClock]
  | rd m =>
    exact onOk_withClock rn hz s (operandByte s m) fun d =>
      congrArg Host.Outcome.next (finishRead_withClock rn hz s d)
  | wd m =>
    exact onOk_withClock rn hz s (operandByte s m) fun d =>
      congrArg Host.Outcome.next (finishWrite_withClock rn hz s d (lowByte (s.get .a)))
  | td m =>
    exact onOk_withClock rn hz s (operandByte s m) fun d =>
      congrArg Host.Outcome.next (finishTest_withClock rn hz s d)

/-! ### The fetch and the step -/

theorem fetchThen_withClock {go : Byte → State → Fetched}
    (h : ∀ v t, go v (t.withClock rn hz) = (go v t).withClock rn hz) :
    fetchThen (s.withClock rn hz) go = (fetchThen s go).withClock rn hz := by
  simp only [fetchThen, fetchByte, State.read_withClock, memRead1_withClock, State.write_withClock]
  cases memRead1 s (s.read .pc) with
  | error k => rfl
  | ok v => exact h v _

theorem fetchInstr_withClock : fetchInstr (s.withClock rn hz) = (fetchInstr s).withClock rn hz := by
  refine fetchThen_withClock rn hz s fun b1 s1 => ?_
  split
  · rfl
  · rfl
  · exact fetchThen_withClock rn hz s1 fun b2 s2 => rfl
  · refine fetchThen_withClock rn hz s1 fun b2 s2 => fetchThen_withClock rn hz s2 fun b3 s3 => ?_
    split
    · exact fetchThen_withClock rn hz s3 fun b4 s4 => rfl
    · rfl

/-- A step does the same whatever RUN and SPEED hold, and leaves them. -/
theorem step_withClock : step (s.withClock rn hz) = outcomeWithClock rn hz (step s) := by
  rcases step_cases s with ⟨hf, he⟩ | ⟨hf, d, hw, he⟩ | ⟨hf, hw, ⟨k, t, hi, he⟩ | ⟨i, t, hi, he⟩⟩ <;> rw [he]
  · obtain ⟨k, hk⟩ := Option.ne_none_iff_exists'.1 hf
    exact step_of_fault (k := k) hk
  · rw [step_of_waiting (s := s.withClock rn hz) hf hw, finishRead_withClock]
    rfl
  · exact step_of_raised (s := s.withClock rn hz) (t := t.withClock rn hz) hf hw (by
      rw [fetchInstr_withClock, hi]
      rfl)
  · rw [← exec_withClock]
    exact step_of_instr (s := s.withClock rn hz) hf hw (by
      rw [fetchInstr_withClock, hi]
      rfl)

theorem step_withClock_next {s t : State} (h : step s = .next t) :
    step (s.withClock rn hz) = .next (t.withClock rn hz) := by
  rw [step_withClock, h]
  rfl

end

/-- A step leaves RUN and SPEED: with the values they have put in again, it ends in the same state. -/
theorem step_keeps_clock {s t : State} (h : step s = .next t) : t.run = s.run ∧ t.speed = s.speed := by
  have hself : Host.Outcome.next (t.withClock s.run s.speed) = step s :=
    (step_withClock_next s.run s.speed h).symm.trans (congrArg step s.withClock_self)
  have ht := Host.Outcome.next.inj (hself.trans h)
  exact ⟨(congrArg State.run ht).symm, (congrArg State.speed ht).symm⟩

/-- Settles O20: the range of SPEED by the invariant, the rest by `step_withClock`. -/
theorem stepLeavesTheClockAlone : Obligations.StepLeavesTheClockAlone := by
  refine ⟨rfl, fun s h => ⟨(inv_of_reachable h).speed_pos, (inv_of_reachable h).speed_le⟩, fun s t r hz h => ?_⟩
  obtain ⟨hrun, hspeed⟩ := step_keeps_clock h
  exact ⟨hrun, hspeed, step_withClock_next r hz h⟩

end Sys2Proof.Machine
end

section
/-! SUPPORT. Memory (20_memory.md): which accesses are legal, how a word lies in it, which instructions change it, F and
the device table, and the invariant under a step. -/

namespace Sys2Proof.Machine

/-- Settles O14, by the cases of a step. -/
theorem stepKeepsInvariant : Obligations.StepKeepsInvariant :=
  fun _ _ h hst => h.step hst

/-! ### The range rule -/

/-- The range rule, with the last byte of the access written out (20_memory.md R53). -/
theorem inRange_iff_last_le (a : Int) (n : Nat) : inRange a n = true ↔ 0 ≤ a ∧ a + (n : Int) - 1 ≤ 0xFFFFF := by
  rw [inRange_iff, Config.memorySize]
  omega

/-- An access that completes in range and faults out of range follows the range rule. -/
theorem access_follows_rangeRule {α : Type} {r : Except Fault α} {v : α} {a : Int} {n : Nat}
    (h : (inRange a n = false ∧ r = .error (.addressRange a)) ∨ (inRange a n = true ∧ r = .ok v)) :
    (0 ≤ a ∧ a + (n : Int) - 1 ≤ 0xFFFFF → ∃ v, r = .ok v) ∧
      (¬(0 ≤ a ∧ a + (n : Int) - 1 ≤ 0xFFFFF) → r = .error (.addressRange a)) := by
  rw [← inRange_iff_last_le]
  rcases h with ⟨hr, he⟩ | ⟨hr, he⟩
  · exact ⟨fun hin => absurd hin (by simp [hr]), fun _ => he⟩
  · exact ⟨fun _ => ⟨v, he⟩, fun hout => absurd hr hout⟩

/-- Settles O23: what each access can answer, by the range rule. -/
theorem accessRangeRule : Obligations.AccessRangeRule := fun s a =>
  ⟨access_follows_rangeRule (memRead1_cases s a), access_follows_rangeRule (memRead3_cases s a),
    access_follows_rangeRule (memRead6_cases s a), fun bs => access_follows_rangeRule (memWrite_cases s a bs)⟩

/-! ### Words in memory -/

/-- A word lies in memory with its most significant byte first (20_memory.md R52). -/
theorem read_writeBytes_bytesOfWord (m : Memory) (a : Nat) (w : Word) :
    ((m.writeBytes a (bytesOfWord w)).read a).toNat = w.toNat / 65536 ∧
      ((m.writeBytes a (bytesOfWord w)).read (a + 1)).toNat = w.toNat / 256 % 256 ∧
      ((m.writeBytes a (bytesOfWord w)).read (a + 2)).toNat = w.toNat % 256 := by
  have hw := w.isLt
  refine ⟨?_, ?_, ?_⟩
  · rw [bytesOfWord, Memory.read_writeBytes_head, BitVec.toNat_ofNat]
    omega
  · rw [Memory.read_writeBytes_add m a (by simp)]
    exact BitVec.toNat_ofNat _ _
  · rw [Memory.read_writeBytes_add m a (by simp)]
    exact BitVec.toNat_ofNat _ _

/-- Settles O24: the write is in range, and so is the read of the same three bytes. -/
theorem wordRoundTripIsBigEndian : Obligations.WordRoundTripIsBigEndian := by
  intro s t a w h
  rcases memWrite_cases s a (bytesOfWord w) with ⟨-, he⟩ | ⟨hr, -⟩
  · cases he.symm.trans h
  · obtain rfl := memWrite_eq h
    have h0 : 0 ≤ a := ((inRange_iff _ _).1 hr).1
    obtain ⟨hhigh, hmid, hlow⟩ := read_writeBytes_bytesOfWord s.mem a.toNat w
    exact ⟨memRead3_writeBytes s w hr, hhigh, hmid, hlow, sameMemoryOutside_writeBytes s h0 (bytesOfWord w),
      sameRegsExcept_setMem [] s _, rfl, sameRest_setMem s _⟩

/-! ### What the device operations leave alone -/

theorem DeviceStep.mem {s t : State} (h : DeviceStep s t) : t.mem = s.mem := by
  obtain ⟨-, -, hmem, -⟩ := h
  exact hmem

theorem DeviceStep.regF {s t : State} (h : DeviceStep s t) : t.regF = s.regF := by
  obtain ⟨-, hF, -⟩ := h
  exact hF

@[simp] theorem finishRead_mem (d : Byte) (s : State) : (finishRead d s).mem = s.mem := by
  obtain ⟨t, ht, ⟨v, he⟩ | he | he⟩ := finishRead_cases d s <;> simp [he, ht.mem]

@[simp] theorem finishWrite_mem (d v : Byte) (s : State) : (finishWrite d v s).mem = s.mem := by
  obtain ⟨t, ht, he | he⟩ := finishWrite_cases d v s <;> simp [he, ht.mem]

@[simp] theorem finishTest_mem (d : Byte) (s : State) : (finishTest d s).mem = s.mem := by
  obtain ⟨t, ht, ⟨v, he⟩ | he⟩ := finishTest_cases d s <;> simp [he, ht.mem]

@[simp] theorem finishRead_regF (d : Byte) (s : State) : (finishRead d s).regF = s.regF := by
  obtain ⟨t, ht, ⟨v, he⟩ | he | he⟩ := finishRead_cases d s <;> simp [he, ht.regF]

@[simp] theorem finishWrite_regF (d v : Byte) (s : State) : (finishWrite d v s).regF = s.regF := by
  obtain ⟨t, ht, he | he⟩ := finishWrite_cases d v s <;> simp [he, ht.regF]

@[simp] theorem finishTest_regF (d : Byte) (s : State) : (finishTest d s).regF = s.regF := by
  obtain ⟨t, ht, ⟨v, he⟩ | he⟩ := finishTest_cases d s <;> simp [he, ht.regF]

/-! ### What an instruction leaves alone -/

theorem sameMemory_of_mem_eq {s t : State} (h : t.mem = s.mem) : SameMemory s t :=
  fun a => congrArg (Memory.read · a) h

/-- An instruction that is no store leaves memory. -/
theorem exec_mem {i : Instr} {s t : State} (he : exec i s = .next t) (hi : storesToMemory i = false) :
    t.mem = s.mem := by
  cases effect_of_exec he with
  | stores hst => exact absurd hst (by simp [hi])
  | sets _ w => exact State.mem_set s _ w
  | setsTwo _ _ w v => exact (State.mem_set _ _ v).trans (State.mem_set s _ w)
  | traps | keeps | loadsFloat => rfl
  | readsDevice _ d => exact finishRead_mem d s
  | writesDevice _ d v => exact finishWrite_mem d v s
  | testsDevice _ d => exact finishTest_mem d s

/-- An instruction other than LDF leaves F. -/
theorem exec_regF {i : Instr} {s t : State} (he : exec i s = .next t) (hi : ∀ m, i ≠ .ldf m) : t.regF = s.regF := by
  cases effect_of_exec he with
  | loadsFloat hldf =>
    obtain ⟨m, hm⟩ := hldf
    exact absurd hm (hi m)
  | sets _ w => exact State.regF_set s _ w
  | setsTwo _ _ w v => exact (State.regF_set _ _ v).trans (State.regF_set s _ w)
  | traps | keeps | stores => rfl
  | readsDevice _ d => exact finishRead_regF d s
  | writesDevice _ d v => exact finishWrite_regF d v s
  | testsDevice _ d => exact finishTest_regF d s

/-- An instruction that reaches no device leaves the device table. -/
theorem exec_devices {i : Instr} {s t : State} (he : exec i s = .next t) (hi : reachesDevices i = false) :
    t.devices = s.devices := by
  cases effect_of_exec he with
  | readsDevice hdev | writesDevice hdev | testsDevice hdev =>
    obtain ⟨m, rfl⟩ := hdev
    exact Bool.noConfusion hi
  | sets _ w => exact State.devices_set s _ w
  | setsTwo _ _ w v => exact (State.devices_set _ _ v).trans (State.devices_set s _ w)
  | traps | keeps | loadsFloat | stores => rfl

/-- Settles O56: a frame for each of memory, F and the device table. -/
theorem onlyTheirInstructionsChangeMemoryFAndDevices :
    Obligations.OnlyTheirInstructionsChangeMemoryFAndDevices := fun _ _ _ he =>
  ⟨fun hi => sameMemory_of_mem_eq (exec_mem he hi), exec_regF he, exec_devices he⟩

end Sys2Proof.Machine
end

section
/-! SUPPORT. The rows of the opcode map: the family, length and encoding of the instructions a row makes, and when
`classify` finds the row (30_encoding.md R78 to R82). -/

namespace Sys2Proof

/-! ### What a row makes -/

/-- What the row makes is of the row's family, with that family's encoding and length. `op8` is the opcode where all eight
bits are compared, `op6` where the top six are (R78). -/
def OpcodeRow.EncodedBy (op8 op6 : Nat) : OpcodeRow → Prop
  | .f1 i => encode i = encodeF1 op8 ∧ formatOf i = .f1 ∧ instrLength i = 1
  | .f2 mk => ∀ r1 r2, encode (mk r1 r2) = encodeF2 op8 r1 r2 ∧ formatOf (mk r1 r2) = .f2 ∧ instrLength (mk r1 r2) = 2
  | .f34 mk => ∀ m, encode (mk m) = encodeF34 op6 m ∧ formatOf (mk m) = .f34 ∧ instrLength (mk m) = operandLength m

theorem encodedBy_of_mem_table8 (op6 : Nat) : ∀ p ∈ table8, p.2.EncodedBy p.1 op6 := by
  iterate 11 refine List.forall_mem_cons.2 ⟨fun _ _ => ⟨rfl, rfl, rfl⟩, ?_⟩ -- Format 2
  iterate 6 refine List.forall_mem_cons.2 ⟨⟨rfl, rfl, rfl⟩, ?_⟩ -- Format 1
  exact List.forall_mem_nil _

theorem encodedBy_of_mem_table6 (op8 : Nat) : ∀ p ∈ table6, p.2.EncodedBy op8 p.1 := by
  iterate 42 refine List.forall_mem_cons.2 ⟨fun _ => ⟨rfl, rfl, rfl⟩, ?_⟩
  exact List.forall_mem_nil _

/-- The row that a byte selects is that of the byte's opcode. -/
theorem classify_encodedBy {b1 : Byte} {row : OpcodeRow} (h : classify b1 = some row) :
    row.EncodedBy b1.toNat (bits b1 7 2 * 4) := by
  unfold classify at h
  split at h
  next r hr =>
    cases h
    exact encodedBy_of_mem_table8 _ _ (mem_of_lookup hr)
  next => exact encodedBy_of_mem_table6 _ _ (mem_of_lookup h)

/-! ### When `classify` finds a row -/

theorem opcode_lt_of_mem_table8 : ∀ p ∈ table8, p.1 < 256 := by decide

/-- The opcode of a Format-1 or Format-2 row selects that row. -/
theorem classify_of_lookup_table8 {op : Nat} {row : OpcodeRow} (h : table8.lookup op = some row) :
    classify (BitVec.ofNat 8 op) = some row := by
  have hop : op < 256 := opcode_lt_of_mem_table8 _ (mem_of_lookup h)
  simp [classify, BitVec.toNat_ofNat, Nat.mod_eq_of_lt hop, h]

/-- No Format-1 or Format-2 opcode has its top six bits in common with an F3_F4 opcode. -/
theorem tables_disjoint : ∀ p ∈ table6, ∀ q ∈ table8, q.1 / 4 * 4 ≠ p.1 := by decide

/-- The F3_F4 opcodes leave the two low bits of the first byte to the flags (R78). -/
theorem opcode_of_mem_table6 : ∀ p ∈ table6, p.1 % 4 = 0 ∧ p.1 < 256 := by decide

theorem bits_opcode (b1 : Byte) : bits b1 7 2 * 4 = b1.toNat / 4 * 4 := by
  have := b1.isLt
  simp only [bits]
  omega

/-- Any byte with the top six bits of an F3_F4 opcode selects that opcode's row. -/
theorem classify_of_lookup_table6 {op : Nat} {row : OpcodeRow} (h : table6.lookup op = some row) {b1 : Byte}
    (hb : bits b1 7 2 * 4 = op) : classify b1 = some row := by
  have h8 : table8.lookup b1.toNat = none := by
    cases hl : table8.lookup b1.toNat with
    | none => rfl
    | some row =>
      exact absurd (by rw [← bits_opcode, hb]) (tables_disjoint _ (mem_of_lookup h) _ (mem_of_lookup hl))
  simp [classify, h8, hb, h]

/-! ### The opcode bytes -/

/-- Settles O4: the bytes that classify to nothing, then the three counts, over all 256 bytes. -/
theorem opcodeBytePartition : Obligations.OpcodeBytePartition := by
  refine ⟨?_, ?_, ?_, ?_⟩
  · decide +kernel
  · decide +kernel
  · decide +kernel
  · decide +kernel

end Sys2Proof
end

section
/-! SUPPORT. The fields of an instruction's bytes: reading the written fields, and writing the read ones (30_encoding.md
R72 to R76, R84, R85, R88). -/

namespace Sys2Proof

/-! ### Single bits -/

theorem flagBit_lt_two (b : Bool) : flagBit b < 2 := by cases b <;> decide

/-- A bit written back is the bit of the byte. -/
theorem flagBit_bitAt (v : Byte) (k : Nat) : flagBit (bitAt v k) = v.toNat / 2 ^ k % 2 := by
  unfold flagBit bitAt
  split <;> simp_all

/-- A bit reads as the flag written into it. -/
theorem bitAt_eq_of_flagBit {v : Byte} {k : Nat} {b : Bool} (h : v.toNat / 2 ^ k % 2 = flagBit b) : bitAt v k = b := by
  rw [bitAt, h]
  cases b <;> rfl

/-! ### Format 2 -/

theorem fieldR1_encoded (r1 r2 : BitVec 4) : fieldR1 (BitVec.ofNat 8 (r1.toNat * 16 + r2.toNat)) = r1 := by
  apply BitVec.eq_of_toNat_eq
  simp only [fieldR1, bits, BitVec.toNat_ofNat]
  omega

theorem fieldR2_encoded (r1 r2 : BitVec 4) : fieldR2 (BitVec.ofNat 8 (r1.toNat * 16 + r2.toNat)) = r2 := by
  apply BitVec.eq_of_toNat_eq
  simp only [fieldR2, bits, BitVec.toNat_ofNat]
  omega

theorem encodeF2_fields (b1 b2 : Byte) : encodeF2 b1.toNat (fieldR1 b2) (fieldR2 b2) = [b1, b2] := by
  have hb2 : BitVec.ofNat 8 ((fieldR1 b2).toNat * 16 + (fieldR2 b2).toNat) = b2 := by
    apply BitVec.eq_of_toNat_eq
    simp only [fieldR1, fieldR2, bits, BitVec.toNat_ofNat]
    omega
  rw [encodeF2, hb2, BitVec.ofNat_toNat, BitVec.setWidth_eq]

/-! ### The first byte of the F3_F4 family -/

section
variable {op : Nat} (hop : op % 4 = 0 ∧ op < 256) (fl : Flags)
include hop

theorem encodeB1_toNat : (encodeB1 op fl).toNat = op + flagBit fl.n * 2 + flagBit fl.i := by
  have := flagBit_lt_two fl.n
  have := flagBit_lt_two fl.i
  rw [encodeB1, BitVec.toNat_ofNat]
  omega

theorem opcode_encodeB1 : bits (encodeB1 op fl) 7 2 * 4 = op := by
  have := flagBit_lt_two fl.n
  have := flagBit_lt_two fl.i
  rw [bits_opcode, encodeB1_toNat hop]
  omega

theorem bitAt_encodeB1_n : bitAt (encodeB1 op fl) 1 = fl.n := by
  have := flagBit_lt_two fl.n
  have := flagBit_lt_two fl.i
  apply bitAt_eq_of_flagBit
  rw [encodeB1_toNat hop]
  omega

theorem bitAt_encodeB1_i : bitAt (encodeB1 op fl) 0 = fl.i := by
  have := flagBit_lt_two fl.i
  apply bitAt_eq_of_flagBit
  rw [encodeB1_toNat hop]
  omega

end

/-- Where the flags select Format 3 or 4, the first byte says so. -/
theorem isSic_encodeB1 {op : Nat} (hop : op % 4 = 0 ∧ op < 256) {fl : Flags} (hfl : fl.selectsF3F4 = true) :
    isSic (encodeB1 op fl) = false := by
  have := flagBit_lt_two fl.n
  have := flagBit_lt_two fl.i
  have hset : flagBit fl.n = 1 ∨ flagBit fl.i = 1 := by
    simpa [flagBit] using Bool.or_eq_true_iff.1 hfl
  rw [isSic, bits, encodeB1_toNat hop, beq_eq_false_iff_ne]
  omega

/-- The first byte of a SIC-compatible instruction is the opcode alone. -/
theorem isSic_ofNat {op : Nat} (hop : op % 4 = 0 ∧ op < 256) : isSic (BitVec.ofNat 8 op) = true := by
  simp only [isSic, bits, BitVec.toNat_ofNat, beq_iff_eq]
  omega

/-! ### The second byte of the F3_F4 family -/

section
variable (fl : Flags) (e : Bool) {top : Nat} (htop : top < 16)
include htop

theorem encodeB2_toNat : (encodeB2 fl e top).toNat =
    flagBit fl.x * 128 + flagBit fl.b * 64 + flagBit fl.p * 32 + flagBit e * 16 + top := by
  have := flagBit_lt_two fl.x
  have := flagBit_lt_two fl.b
  have := flagBit_lt_two fl.p
  have := flagBit_lt_two e
  rw [encodeB2, BitVec.toNat_ofNat]
  omega

theorem bitAt_encodeB2_e : bitAt (encodeB2 fl e top) 4 = e := by
  have := flagBit_lt_two e
  apply bitAt_eq_of_flagBit
  rw [encodeB2_toNat fl e htop]
  omega

theorem bits_encodeB2_top : bits (encodeB2 fl e top) 3 0 = top := by
  rw [bits, encodeB2_toNat fl e htop]
  omega

/-- The flags read from the two bytes are the flags written into them (R75). -/
theorem extractFlags_encoded {op : Nat} (hop : op % 4 = 0 ∧ op < 256) :
    extractFlags (encodeB1 op fl) (encodeB2 fl e top) = fl := by
  have := flagBit_lt_two fl.b
  have := flagBit_lt_two fl.p
  have := flagBit_lt_two fl.x
  have := flagBit_lt_two e
  have hx : bitAt (encodeB2 fl e top) 7 = fl.x := bitAt_eq_of_flagBit (by rw [encodeB2_toNat fl e htop]; omega)
  have hb : bitAt (encodeB2 fl e top) 6 = fl.b := bitAt_eq_of_flagBit (by rw [encodeB2_toNat fl e htop]; omega)
  have hp : bitAt (encodeB2 fl e top) 5 = fl.p := bitAt_eq_of_flagBit (by rw [encodeB2_toNat fl e htop]; omega)
  rw [extractFlags, bitAt_encodeB1_n hop, bitAt_encodeB1_i hop, hx, hb, hp]

end

/-- The two flag bytes written from what was read from them. -/
theorem encodeB1_extractFlags (b1 b2 : Byte) : encodeB1 (bits b1 7 2 * 4) (extractFlags b1 b2) = b1 := by
  apply BitVec.eq_of_toNat_eq
  simp only [encodeB1, extractFlags, flagBit_bitAt, bits_opcode, BitVec.toNat_ofNat]
  omega

theorem encodeB2_extractFlags (b1 b2 : Byte) : encodeB2 (extractFlags b1 b2) (bitAt b2 4) (bits b2 3 0) = b2 := by
  apply BitVec.eq_of_toNat_eq
  simp only [encodeB2, extractFlags, flagBit_bitAt, bits, BitVec.toNat_ofNat]
  omega

/-! ### Reading a written operand -/

theorem hasFourth_of_isSic {b1 : Byte} (h : isSic b1 = true) (b2 : Byte) : hasFourth b1 b2 = false := by
  simp [hasFourth, h]

theorem hasFourth_of_not_isSic {b1 : Byte} (h : isSic b1 = false) (b2 : Byte) : hasFourth b1 b2 = bitAt b2 4 := by
  simp [hasFourth, h]

/-- The bytes, from the first on, of an F3_F4 instruction whose opcode and operand are these, by the length that the
decoder takes it to have. -/
inductive OperandBytes (op : Nat) (m : Operand) : List Byte → Prop
  | three {b1 b2 b3 : Byte} (hop : bits b1 7 2 * 4 = op) (h4 : hasFourth b1 b2 = false) (hm : operand3 b1 b2 b3 = m) :
      OperandBytes op m [b1, b2, b3]
  | four {b1 b2 b3 b4 : Byte} (hop : bits b1 7 2 * 4 = op) (h4 : hasFourth b1 b2 = true)
      (hm : operand4 b1 b2 b3 b4 = m) : OperandBytes op m [b1, b2, b3, b4]

/-- SIC-compatible: the address is put together from seven bits and a byte (R76). -/
theorem operandBytes_sic {op : Nat} (hop : op % 4 = 0 ∧ op < 256) (x : Bool) (addr : BitVec 15) :
    OperandBytes op (.sic x addr) (encodeF34 op (.sic x addr)) := by
  have hflag := flagBit_lt_two x
  have haddr := addr.isLt
  refine .three ?_ (hasFourth_of_isSic (isSic_ofNat hop) _) ?_
  · rw [bits_opcode, BitVec.toNat_ofNat]
    omega
  · rw [operand3, if_pos (isSic_ofNat hop)]
    congr 1
    · apply bitAt_eq_of_flagBit
      rw [BitVec.toNat_ofNat]
      omega
    · apply BitVec.eq_of_toNat_eq
      simp only [bits, BitVec.toNat_ofNat]
      omega

/-- Format 3: the displacement is put together from four bits and a byte (R73). -/
theorem operandBytes_f3 {op : Nat} (hop : op % 4 = 0 ∧ op < 256) {fl : Flags} (hfl : fl.selectsF3F4 = true)
    (disp : BitVec 12) : OperandBytes op (.f3 fl disp) (encodeF34 op (.f3 fl disp)) := by
  have htop : disp.toNat / 256 < 16 := by omega
  have hsic := isSic_encodeB1 hop hfl
  refine .three (opcode_encodeB1 hop fl) ?_ ?_
  · rw [hasFourth_of_not_isSic hsic, bitAt_encodeB2_e fl false htop]
  · rw [operand3, if_neg (by simp [hsic]), extractFlags_encoded fl false htop hop, bits_encodeB2_top fl false htop]
    congr 1
    apply BitVec.eq_of_toNat_eq
    simp only [BitVec.toNat_ofNat]
    omega

/-- Format 4: the address is put together from four bits and two bytes (R74). -/
theorem operandBytes_f4 {op : Nat} (hop : op % 4 = 0 ∧ op < 256) {fl : Flags} (hfl : fl.selectsF3F4 = true)
    (addr : BitVec 20) : OperandBytes op (.f4 fl addr) (encodeF34 op (.f4 fl addr)) := by
  have htop : addr.toNat / 65536 < 16 := by omega
  refine .four (opcode_encodeB1 hop fl) ?_ ?_
  · rw [hasFourth_of_not_isSic (isSic_encodeB1 hop hfl), bitAt_encodeB2_e fl true htop]
  · rw [operand4, extractFlags_encoded fl true htop hop, bits_encodeB2_top fl true htop]
    congr 1
    apply BitVec.eq_of_toNat_eq
    simp only [BitVec.toNat_ofNat]
    omega

/-- A well-formed operand reads back from its encoding, in each of the three layouts. -/
theorem operandBytes_encodeF34 {op : Nat} (hop : op % 4 = 0 ∧ op < 256) {m : Operand} (hm : m.wellFormed = true) :
    OperandBytes op m (encodeF34 op m) := by
  cases m with
  | sic x addr => exact operandBytes_sic hop x addr
  | f3 fl disp => exact operandBytes_f3 hop hm disp
  | f4 fl addr => exact operandBytes_f4 hop hm addr

/-! ### Writing a read operand -/

theorem ofNat_eq_of_mod {n : Nat} {b : Byte} (h : n % 256 = b.toNat) : BitVec.ofNat 8 n = b :=
  BitVec.eq_of_toNat_eq (by rw [BitVec.toNat_ofNat]; exact h)

theorem encodeF34_operand4 {b1 b2 : Byte} (b3 b4 : Byte) (h4 : hasFourth b1 b2 = true) :
    encodeF34 (bits b1 7 2 * 4) (operand4 b1 b2 b3 b4) = [b1, b2, b3, b4] := by
  have he : bitAt b2 4 = true := (Bool.and_eq_true_iff.1 h4).2
  have hbits : bits b2 3 0 < 16 := Nat.mod_lt _ (by decide)
  simp only [operand4, encodeF34, encodeB1_extractFlags, BitVec.toNat_ofNat]
  rw [Nat.mod_eq_of_lt (by omega), ofNat_eq_of_mod (b := b3) (by omega), ofNat_eq_of_mod (b := b4) (by omega),
    show (bits b2 3 0 * 65536 + b3.toNat * 256 + b4.toNat) / 65536 = bits b2 3 0 by omega, ← he, encodeB2_extractFlags]

theorem encodeF34_operand3_sic {b1 : Byte} (b2 b3 : Byte) (hsic : isSic b1 = true) :
    encodeF34 (bits b1 7 2 * 4) (operand3 b1 b2 b3) = [b1, b2, b3] := by
  have hb1 : BitVec.ofNat 8 (bits b1 7 2 * 4) = b1 := by
    apply ofNat_eq_of_mod
    rw [isSic, bits, beq_iff_eq] at hsic
    rw [bits_opcode]
    omega
  have hb2 : flagBit (bitAt b2 7) * 128 + bits b2 6 0 = b2.toNat := by
    rw [flagBit_bitAt, bits]
    omega
  have hbits : bits b2 6 0 < 128 := Nat.mod_lt _ (by decide)
  simp only [operand3, hsic, if_true, encodeF34, hb1, BitVec.toNat_ofNat]
  rw [Nat.mod_eq_of_lt (by omega), ofNat_eq_of_mod (b := b2) (by omega), ofNat_eq_of_mod (b := b3) (by omega)]

theorem encodeF34_operand3_f3 {b1 b2 : Byte} (b3 : Byte) (hsic : isSic b1 = false) (h4 : hasFourth b1 b2 = false) :
    encodeF34 (bits b1 7 2 * 4) (operand3 b1 b2 b3) = [b1, b2, b3] := by
  have he : bitAt b2 4 = false := (hasFourth_of_not_isSic hsic b2).symm.trans h4
  have hbits : bits b2 3 0 < 16 := Nat.mod_lt _ (by decide)
  simp only [operand3, hsic, Bool.false_eq_true, if_false, encodeF34, encodeB1_extractFlags, BitVec.toNat_ofNat]
  rw [Nat.mod_eq_of_lt (by omega), ofNat_eq_of_mod (b := b3) (by omega),
    show (bits b2 3 0 * 256 + b3.toNat) / 256 = bits b2 3 0 by omega, ← he, encodeB2_extractFlags]

/-- What reads back as an operand is well formed and is the operand's encoding. -/
theorem OperandBytes.encoding {op : Nat} {m : Operand} {bs : List Byte} (h : OperandBytes op m bs) :
    m.wellFormed = true ∧ encodeF34 op m = bs := by
  cases h with
  | three hop h4 hm =>
    subst hop hm
    refine ⟨operand3_wellFormed _ _ _, ?_⟩
    cases hsic : isSic _ with
    | true => exact encodeF34_operand3_sic _ _ hsic
    | false => exact encodeF34_operand3_f3 _ hsic h4
  | four hop h4 hm =>
    subst hop hm
    exact ⟨operand4_wellFormed _ _ h4, encodeF34_operand4 _ _ h4⟩

end Sys2Proof
end

section
/-! SUPPORT. The decoder, by the row that the first byte selects, and its agreement with the encoder (30_encoding.md R77,
R88). -/

namespace Sys2Proof

/-! ### The decoder's answers -/

theorem decode_unknown {b1 : Byte} (h : classify b1 = none) (rest : List Byte) :
    decode (b1 :: rest) = .error (.unknownOpcode b1) := by
  simp [decode, h]

theorem decode_f1 {b1 : Byte} {i : Instr} (h : classify b1 = some (.f1 i)) (rest : List Byte) :
    decode (b1 :: rest) = .ok (i, rest) := by
  simp [decode, h]

section
variable {b1 : Byte} {mk : BitVec 4 → BitVec 4 → Instr} (h : classify b1 = some (.f2 mk))
include h

theorem decode_f2_truncated : decode [b1] = .error .truncated := by
  simp [decode, h]

theorem decode_f2 (b2 : Byte) (rest : List Byte) :
    decode (b1 :: b2 :: rest) = .ok (mk (fieldR1 b2) (fieldR2 b2), rest) := by
  simp [decode, h]

end

section
variable {b1 : Byte} {mk : Operand → Instr} (h : classify b1 = some (.f34 mk))
include h

theorem decode_f34_one : decode [b1] = .error .truncated := by
  simp [decode, h]

theorem decode_f34_two (b2 : Byte) : decode [b1, b2] = .error .truncated := by
  simp [decode, h]

theorem decode_three {b2 : Byte} (h4 : hasFourth b1 b2 = false) (b3 : Byte) (rest : List Byte) :
    decode (b1 :: b2 :: b3 :: rest) = .ok (mk (operand3 b1 b2 b3), rest) := by
  simp [decode, h, h4]

theorem decode_four_truncated {b2 : Byte} (h4 : hasFourth b1 b2 = true) (b3 : Byte) :
    decode [b1, b2, b3] = .error .truncated := by
  simp [decode, h, h4]

theorem decode_four {b2 : Byte} (h4 : hasFourth b1 b2 = true) (b3 b4 : Byte) (rest : List Byte) :
    decode (b1 :: b2 :: b3 :: b4 :: rest) = .ok (mk (operand4 b1 b2 b3 b4), rest) := by
  simp [decode, h, h4]

end

/-- What decodes, by the family of its row. -/
inductive Decoded (i : Instr) (rest : List Byte) : List Byte → Prop
  | f1 {b1 : Byte} (h : classify b1 = some (.f1 i)) : Decoded i rest (b1 :: rest)
  | f2 {b1 : Byte} {mk : BitVec 4 → BitVec 4 → Instr} (h : classify b1 = some (.f2 mk)) (b2 : Byte)
      (hi : mk (fieldR1 b2) (fieldR2 b2) = i) : Decoded i rest (b1 :: b2 :: rest)
  | f34 {b1 : Byte} {mk : Operand → Instr} {m : Operand} {bs : List Byte} (h : classify b1 = some (.f34 mk))
      (hm : OperandBytes (bits b1 7 2 * 4) m bs) (hi : mk m = i) : Decoded i rest (bs ++ rest)

/-- All that the decoder can answer where it answers an instruction. -/
theorem decoded_of_decode {bs rest : List Byte} {i : Instr} (h : decode bs = .ok (i, rest)) : Decoded i rest bs := by
  cases bs with
  | nil => cases h
  | cons b1 tail1 =>
    cases hc : classify b1 with
    | none => cases (decode_unknown hc tail1).symm.trans h
    | some row =>
      cases row with
      | f1 j =>
        cases (decode_f1 hc tail1).symm.trans h
        exact .f1 hc
      | f2 mk =>
        cases tail1 with
        | nil => cases (decode_f2_truncated hc).symm.trans h
        | cons b2 tail2 =>
          cases (decode_f2 hc b2 tail2).symm.trans h
          exact .f2 hc b2 rfl
      | f34 mk =>
        match tail1 with
        | [] => cases (decode_f34_one hc).symm.trans h
        | [b2] => cases (decode_f34_two hc b2).symm.trans h
        | b2 :: b3 :: tail3 =>
          cases h4 : hasFourth b1 b2 with
          | false =>
            cases (decode_three hc h4 b3 tail3).symm.trans h
            exact .f34 hc (.three rfl h4 rfl) rfl
          | true =>
            cases tail3 with
            | nil => cases (decode_four_truncated hc h4 b3).symm.trans h
            | cons b4 tail4 =>
              cases (decode_four hc h4 b3 b4 tail4).symm.trans h
              exact .f34 hc (.four rfl h4 rfl) rfl

/-! ### Decoding what was encoded -/

theorem decode_encodeF1 {op : Nat} {i : Instr} (h : table8.lookup op = some (.f1 i)) (rest : List Byte) :
    decode (encodeF1 op ++ rest) = .ok (i, rest) :=
  decode_f1 (classify_of_lookup_table8 h) rest

theorem decode_encodeF2 {op : Nat} {mk : BitVec 4 → BitVec 4 → Instr} (h : table8.lookup op = some (.f2 mk))
    (r1 r2 : BitVec 4) (rest : List Byte) : decode (encodeF2 op r1 r2 ++ rest) = .ok (mk r1 r2, rest) := by
  have hd := decode_f2 (classify_of_lookup_table8 h) (BitVec.ofNat 8 (r1.toNat * 16 + r2.toNat)) rest
  rwa [fieldR1_encoded, fieldR2_encoded] at hd

theorem decode_operandBytes {op : Nat} {mk : Operand → Instr} (h : table6.lookup op = some (.f34 mk)) {m : Operand}
    {bs : List Byte} (hm : OperandBytes op m bs) (rest : List Byte) : decode (bs ++ rest) = .ok (mk m, rest) := by
  cases hm with
  | three hop h4 hm => exact hm ▸ decode_three (classify_of_lookup_table6 h hop) h4 _ rest
  | four hop h4 hm => exact hm ▸ decode_four (classify_of_lookup_table6 h hop) h4 _ _ rest

theorem decode_encodeF34 {op : Nat} {mk : Operand → Instr} (h : table6.lookup op = some (.f34 mk)) {m : Operand}
    (hm : m.wellFormed = true) (rest : List Byte) : decode (encodeF34 op m ++ rest) = .ok (mk m, rest) :=
  decode_operandBytes h (operandBytes_encodeF34 (opcode_of_mem_table6 _ (mem_of_lookup h)) hm) rest

/-- Settles O1: each instruction's opcode is looked up in the table of its family, and the family's fields read back. -/
theorem decodeEncodeRoundTrip : Obligations.DecodeEncodeRoundTrip := by
  intro i rest hi
  cases i with
  | float | fix | norm | sio | hio | tio => exact decode_encodeF1 rfl rest
  | addr r1 r2 | subr r1 r2 | mulr r1 r2 | divr r1 r2 | compr r1 r2 | shiftl r1 r2 | shiftr r1 r2 | rmo r1 r2
  | svc r1 r2 | clear r1 r2 | tixr r1 r2 => exact decode_encodeF2 rfl r1 r2 rest
  | _ => exact decode_encodeF34 rfl hi rest

/-- Settles O2: by the family of what decodes, each field is written back as it was read. -/
theorem decodedBytesAreTheirEncoding : Obligations.DecodedBytesAreTheirEncoding := by
  intro bs i rest h
  cases decoded_of_decode h with
  | f1 hc =>
    obtain ⟨henc, -⟩ := classify_encodedBy hc
    refine ⟨classify_sound hc, ?_⟩
    simp [henc, encodeF1]
  | f2 hc b2 hi =>
    subst hi
    obtain ⟨henc, -⟩ := classify_encodedBy hc (fieldR1 b2) (fieldR2 b2)
    exact ⟨classify_sound hc _ _, by rw [henc, encodeF2_fields]; rfl⟩
  | f34 hc hm hi =>
    subst hi
    obtain ⟨hwf, hbs⟩ := hm.encoding
    obtain ⟨henc, -⟩ := classify_encodedBy hc _
    exact ⟨(classify_sound hc _).trans hwf, by rw [henc, hbs]⟩

/-! ### The length of an instruction -/

/-- A fourth byte is asked for by both flags: not n = i = 0, and e = 1 (R77). -/
theorem hasFourth_eq_false_iff (b1 b2 : Byte) :
    hasFourth b1 b2 = false ↔ b1.toNat % 4 = 0 ∨ b2.toNat / 16 % 2 = 0 := by
  have hsic : isSic b1 = true ↔ b1.toNat % 4 = 0 := by
    rw [isSic, bits, beq_iff_eq]
    omega
  have he : bitAt b2 4 = false ↔ b2.toNat / 16 % 2 = 0 := by
    rw [bitAt, beq_eq_false_iff_ne]
    omega
  rw [hasFourth, Bool.and_eq_false_iff, Bool.not_eq_false', hsic, he]

theorem operandLength_operand3 (b1 b2 b3 : Byte) : operandLength (operand3 b1 b2 b3) = 3 := by
  unfold operand3
  split <;> rfl

/-- What three or four bytes of an F3_F4 row decode to is of that family and length. -/
theorem format_and_length_of_f34 {b1 : Byte} {mk : Operand → Instr} (h : classify b1 = some (.f34 mk)) {m : Operand} {n : Nat}
    (hn : operandLength m = n) : formatOf (mk m) = .f34 ∧ instrLength (mk m) = n := by
  obtain ⟨-, hfmt, hlen⟩ := classify_encodedBy h m
  exact ⟨hfmt, hlen.trans hn⟩

/-- Settles O5. -/
theorem sampleWordsDecode : Obligations.SampleWordsDecode :=
  ⟨rfl, rfl, rfl, rfl, rfl, rfl, rfl, rfl, rfl, rfl⟩

end Sys2Proof
end

section
/-! SUPPORT. The length of an instruction, in the decoder and in a step that meets an unknown opcode (30_encoding.md R77,
40_decode_and_address.md R102). -/

namespace Sys2Proof.Machine

/-- A PC inside memory reads as itself: its sign bit is clear (00_scope.md R10). -/
theorem read_pc_eq_toNat {s : State} (hpc : (s.get .pc).toNat ≤ 0xFFFFF) : s.read .pc = ((s.get .pc).toNat : Int) :=
  if_pos (by omega)

/-- A first byte that classifies to nothing ends the step, with PC past that byte (R102). -/
theorem step_of_unknownOpcode {s : State} (hf : s.fault = none) (hw : s.waiting = none)
    (hpc : (s.get .pc).toNat ≤ 0xFFFFF) (hc : classify (s.byteAt (s.get .pc).toNat) = none) :
    step s = .next ((s.write .pc (s.read .pc + 1)).setFault
      (some (.decodeFailure (.unknownOpcode (s.byteAt (s.get .pc).toNat))))) := by
  have hread := read_pc_eq_toNat hpc
  rcases fetchByte_cases s with ⟨hr, -⟩ | ⟨-, he, -⟩
  · have hin : inRange (s.read .pc) 1 = true := by
      rw [inRange_iff, Config.memorySize]
      omega
    exact absurd hin (by simp [hr])
  · rw [hread, Int.toNat_natCast] at he
    refine step_of_raised hf hw ?_
    simp [fetchInstr, fetchThen, he, hc, hread]

/-- Settles O3: the decoder's answers by row; the step by `step_of_unknownOpcode`. -/
theorem lengthFollowsFirstTwoBytes : Obligations.LengthFollowsFirstTwoBytes := by
  refine ⟨fun b1 => ?_, fun s hf hw hpc hc => ?_⟩
  · split
    next hc => exact decode_unknown hc
    next i hc =>
      obtain ⟨-, hfmt, hlen⟩ := classify_encodedBy hc
      exact ⟨hfmt, hlen, decode_f1 hc⟩
    next mk hc =>
      refine ⟨decode_f2_truncated hc, fun b2 => ⟨fieldR1 b2, fieldR2 b2, ?_⟩⟩
      obtain ⟨-, hfmt, hlen⟩ := classify_encodedBy hc (fieldR1 b2) (fieldR2 b2)
      exact ⟨hfmt, hlen, decode_f2 hc b2⟩
    next mk hc =>
      refine ⟨decode_f34_one hc, fun b2 => ⟨decode_f34_two hc b2, fun b3 => ?_⟩⟩
      split
      next hflags =>
        have h4 := (hasFourth_eq_false_iff b1 b2).2 hflags
        obtain ⟨hfmt, hlen⟩ := format_and_length_of_f34 hc (operandLength_operand3 b1 b2 b3)
        exact ⟨_, hfmt, hlen, decode_three hc h4 b3⟩
      next hflags =>
        have h4 : hasFourth b1 b2 = true := by rwa [← hasFourth_eq_false_iff, Bool.not_eq_false] at hflags
        refine ⟨decode_four_truncated hc h4 b3, fun b4 => ?_⟩
        obtain ⟨hfmt, hlen⟩ := format_and_length_of_f34 hc (m := operand4 b1 b2 b3 b4) rfl
        exact ⟨_, hfmt, hlen, decode_four hc h4 b3 b4⟩
  · rw [Option.isNone_iff_eq_none] at hc
    refine ⟨_, step_of_unknownOpcode hf hw hpc hc, ?_, rfl⟩
    have hread := read_pc_eq_toNat hpc
    have hval := trunc24_toNat (s.read .pc + 1)
    rw [State.get_setFault, State.get_write, if_pos rfl]
    omega

end Sys2Proof.Machine
end

section
/-! SUPPORT. The fetch against the decoder: where the bytes from PC on lie in memory, an instruction is fetched exactly as
it decodes, and one that is cut off by the end of memory faults there (40_decode_and_address.md R100, R101). -/

namespace Sys2Proof

/-- Bytes with the same top six bits select the same row of the F3_F4 family (R78). -/
theorem classify_f34_of_sameOpcode {b1 b : Byte} {mk : Operand → Instr} (h : classify b1 = some (.f34 mk))
    (hb : bits b 7 2 * 4 = bits b1 7 2 * 4) : classify b = some (.f34 mk) := by
  have hnot8 : ∀ p ∈ table8, p.2 ≠ .f34 mk := by simp [table8]
  refine classify_of_lookup_table6 ?_ hb
  unfold classify at h
  split at h
  next row hrow => exact absurd (Option.some.inj h) (hnot8 _ (mem_of_lookup hrow))
  next => exact h

/-- The byte lists that end before their instruction does, by the family of the first byte's row. -/
inductive Truncated : List Byte → Prop
  | nil : Truncated []
  | f2 {b1 : Byte} {mk : BitVec 4 → BitVec 4 → Instr} (h : classify b1 = some (.f2 mk)) : Truncated [b1]
  | f34One {b1 : Byte} {mk : Operand → Instr} (h : classify b1 = some (.f34 mk)) : Truncated [b1]
  | f34Two {b1 : Byte} {mk : Operand → Instr} (h : classify b1 = some (.f34 mk)) (b2 : Byte) : Truncated [b1, b2]
  | f34Three {b1 b2 : Byte} {mk : Operand → Instr} (h : classify b1 = some (.f34 mk)) (h4 : hasFourth b1 b2 = true)
      (b3 : Byte) : Truncated [b1, b2, b3]

/-- All that the decoder calls truncated. -/
theorem truncated_of_decode {bs : List Byte} (h : decode bs = .error .truncated) : Truncated bs := by
  cases bs with
  | nil => exact .nil
  | cons b1 tail1 =>
    cases hc : classify b1 with
    | none => cases (decode_unknown hc tail1).symm.trans h
    | some row =>
      cases row with
      | f1 j => cases (decode_f1 hc tail1).symm.trans h
      | f2 mk =>
        cases tail1 with
        | nil => exact .f2 hc
        | cons b2 tail2 => cases (decode_f2 hc b2 tail2).symm.trans h
      | f34 mk =>
        match tail1 with
        | [] => exact .f34One hc
        | [b2] => exact .f34Two hc b2
        | b2 :: b3 :: tail3 =>
          cases h4 : hasFourth b1 b2 with
          | false => cases (decode_three hc h4 b3 tail3).symm.trans h
          | true =>
            cases tail3 with
            | nil => exact .f34Three hc h4 b3
            | cons b4 tail4 => cases (decode_four hc h4 b3 b4 tail4).symm.trans h

end Sys2Proof

namespace Sys2Proof.Machine

/-! ### The bytes ahead of PC -/

/-- Fetching byte by byte from a state yields these bytes, one after the other, and ends in this state. -/
inductive Fetches : State → List Byte → State → Prop
  | nil (s : State) : Fetches s [] s
  | cons {s u t : State} {b : Byte} {bs : List Byte} (hb : fetchByte s = .ok (b, u)) (hbs : Fetches u bs t) :
      Fetches s (b :: bs) t

/-- The next byte is handed to what goes on with it. -/
theorem Fetches.fetchThen {s t : State} {b : Byte} {bs : List Byte} (h : Fetches s (b :: bs) t) :
    ∃ u, Fetches u bs t ∧ ∀ go, fetchThen s go = go b u := by
  cases h with
  | cons hb hbs => exact ⟨_, hbs, fun go => by simp [Machine.fetchThen, hb]⟩

theorem fetchThen_of_error {s : State} {k : Fault} (h : fetchByte s = .error k) (go : Byte → State → Fetched) :
    fetchThen s go = .raised k s := by
  simp [fetchThen, h]

@[simp] theorem bytesFrom_zero (s : State) (a : Nat) : s.bytesFrom a 0 = [] := rfl

theorem bytesFrom_succ (s : State) (a n : Nat) : s.bytesFrom a (n + 1) = s.byteAt a :: s.bytesFrom (a + 1) n := by
  simp [State.bytesFrom, List.range_succ_eq_map, Nat.add_assoc, Nat.add_comm 1]

@[simp] theorem bytesFrom_write (s : State) (r : Reg) (v : Int) (a n : Nat) :
    (s.write r v).bytesFrom a n = s.bytesFrom a n := by
  simp [State.bytesFrom]

/-- Where `n` bytes from PC on lie in memory, fetching yields them and leaves PC past them (R101). -/
theorem fetches_bytesFrom {s : State} {a n : Nat} (hpc : s.read .pc = (a : Int)) (hn : a + n ≤ 0x100000) :
    Fetches s (s.bytesFrom a n) (s.write .pc (s.read .pc + (n : Int))) := by
  induction n generalizing s a with
  | zero => simpa using Fetches.nil s
  | succ n ih =>
    rcases fetchByte_cases s with ⟨hr, -⟩ | ⟨-, hb, hpc'⟩
    · have hin : inRange (s.read .pc) 1 = true := by
        rw [inRange_one_iff]
        omega
      exact absurd hin (by simp [hr])
    · have hrest := ih (s := s.write .pc (s.read .pc + 1)) (a := a + 1) (by omega) (by omega)
      rw [bytesFrom_write, State.write_write, hpc',
        show s.read .pc + 1 + (n : Int) = s.read .pc + ((n + 1 : Nat) : Int) by omega] at hrest
      rw [hpc, Int.toNat_natCast, ← hpc] at hb
      rw [bytesFrom_succ]
      exact .cons hb hrest

/-- The same for a PC given by its bits, when at least one byte is asked for. -/
theorem fetches_bytesFrom_pc {s : State} {n : Nat} (hpos : 0 < n) (hn : (s.get .pc).toNat + n ≤ 0x100000) :
    Fetches s (s.bytesFrom (s.get .pc).toNat n) (s.write .pc (s.read .pc + (n : Int))) :=
  fetches_bytesFrom (read_pc_eq_toNat (by omega)) hn

/-! ### Fetching an instruction -/

/-- Bytes that decode to one instruction are fetched as that instruction. -/
theorem fetchInstr_of_fetches {s t : State} {bs : List Byte} {i : Instr} (h : Fetches s bs t)
    (hd : decode bs = .ok (i, [])) : fetchInstr s = .instr i t := by
  cases decoded_of_decode hd with
  | f1 hc =>
    obtain ⟨s1, h1, e1⟩ := h.fetchThen
    cases h1
    simp [fetchInstr, e1, hc]
  | f2 hc b2 hi =>
    obtain ⟨s1, h1, e1⟩ := h.fetchThen
    obtain ⟨s2, h2, e2⟩ := h1.fetchThen
    cases h2
    simp [fetchInstr, e1, hc, e2, hi]
  | f34 hc hm hi =>
    cases hm with
    | three hop h4 hm =>
      have hc1 := classify_f34_of_sameOpcode hc hop
      obtain ⟨s1, h1, e1⟩ := h.fetchThen
      obtain ⟨s2, h2, e2⟩ := h1.fetchThen
      obtain ⟨s3, h3, e3⟩ := h2.fetchThen
      cases h3
      simp [fetchInstr, e1, hc1, e2, e3, h4, hm, hi]
    | four hop h4 hm =>
      have hc1 := classify_f34_of_sameOpcode hc hop
      obtain ⟨s1, h1, e1⟩ := h.fetchThen
      obtain ⟨s2, h2, e2⟩ := h1.fetchThen
      obtain ⟨s3, h3, e3⟩ := h2.fetchThen
      obtain ⟨s4, h4', e4⟩ := h3.fetchThen
      cases h4'
      simp [fetchInstr, e1, hc1, e2, e3, h4, e4, hm, hi]

/-- Where the bytes that can be fetched are too few for their instruction, it ends in the fault of the next fetch. -/
theorem fetchInstr_of_truncated {s t : State} {bs : List Byte} {k : Fault} (h : Fetches s bs t)
    (hd : decode bs = .error .truncated) (hk : fetchByte t = .error k) : fetchInstr s = .raised k t := by
  have hend := fetchThen_of_error hk
  cases truncated_of_decode hd with
  | nil =>
    cases h
    exact hend _
  | f2 hc | f34One hc =>
    obtain ⟨s1, h1, e1⟩ := h.fetchThen
    cases h1
    simp [fetchInstr, e1, hc, hend]
  | f34Two hc b2 =>
    obtain ⟨s1, h1, e1⟩ := h.fetchThen
    obtain ⟨s2, h2, e2⟩ := h1.fetchThen
    cases h2
    simp [fetchInstr, e1, hc, e2, hend]
  | f34Three hc h4 b3 =>
    obtain ⟨s1, h1, e1⟩ := h.fetchThen
    obtain ⟨s2, h2, e2⟩ := h1.fetchThen
    obtain ⟨s3, h3, e3⟩ := h2.fetchThen
    cases h3
    simp [fetchInstr, e1, hc, e2, e3, h4, hend]

/-- No instruction decodes from no bytes. -/
theorem pos_of_decode_bytesFrom {s : State} {a n : Nat} {p : Instr × List Byte}
    (hd : decode (s.bytesFrom a n) = .ok p) : 0 < n := by
  cases n with
  | zero => cases hd
  | succ n => exact Nat.succ_pos n

/-- Where the bytes at PC decode to an instruction and lie in memory, it is fetched, with PC past them. -/
theorem fetchInstr_of_decode {s : State} {i : Instr} {n : Nat}
    (hd : decode (s.bytesFrom (s.get .pc).toNat n) = .ok (i, [])) (hn : (s.get .pc).toNat + n ≤ 0x100000) :
    fetchInstr s = .instr i (s.write .pc (s.read .pc + (n : Int))) :=
  fetchInstr_of_fetches (fetches_bytesFrom_pc (pos_of_decode_bytesFrom hd) hn) hd

/-- Settles O6. -/
theorem stepRunsDecodedInstruction : Obligations.StepRunsDecodedInstruction :=
  fun _ _ _ hf hw hd hn => step_of_instr hf hw (fetchInstr_of_decode hd hn)

/-- Settles O7: what a step does where the first byte classifies to nothing. -/
theorem unknownOpcodeFaultsAfterOneByte : Obligations.UnknownOpcodeFaultsAfterOneByte := by
  rintro s b1 hf hw hpc rfl hc
  exact step_of_unknownOpcode hf hw hpc (Option.isNone_iff_eq_none.1 hc)

/-- A fetch at the first address past memory faults with that address (10_state.md R25). -/
theorem fetchByte_at_end (s : State) :
    fetchByte (s.write .pc 0x100000) = .error (.addressRange 0x100000) := by
  have hread : (s.write .pc 0x100000).read .pc = 0x100000 := by
    rw [State.read_write, if_pos rfl, s24_trunc24 (by decide) (by decide)]
  rcases fetchByte_cases (s.write .pc 0x100000) with ⟨-, he⟩ | ⟨hr, -⟩
  · rw [he, hread]
  · rw [hread] at hr
    exact absurd hr (by decide)

/-- Settles O9: every byte from PC to the end of memory is fetched, and the next fetch is at 0x100000. -/
theorem fetchPastEndOfMemoryFaults : Obligations.FetchPastEndOfMemoryFaults := by
  intro s hf hw hpc hd
  have hfetch := fetches_bytesFrom_pc (s := s) (n := 0x100000 - (s.get .pc).toNat) (by omega) (by omega)
  have hend : s.read .pc + ((0x100000 - (s.get .pc).toNat : Nat) : Int) = 0x100000 := by
    rw [read_pc_eq_toNat hpc]
    omega
  rw [hend] at hfetch
  exact step_of_raised hf hw (fetchInstr_of_truncated hfetch hd (fetchByte_at_end s))

end Sys2Proof.Machine
end

section
/-! SUPPORT. The memory address unit and the operand values, by addressing mode (40_decode_and_address.md R110 to R117), and
the faults they end an instruction with (R118). -/

namespace Sys2Proof.Machine

/-! ### The effective address -/

theorem indexing_eq (s : State) (m : Operand) (ta : Int) : indexing s m ta = ta + indexPart s (isIndexed m) := by
  cases h : isIndexed m <;> simp [indexing, indexPart, h]

/-- An immediate operand resolves to itself (R111). -/
theorem resolve_of_immediate {m : Operand} (h : isImmediate m = true) (s : State) :
    resolve s m = .ok (rawOperand m : Int) := by
  simp [resolve, h]

theorem isImmediate_of_isIndirect {m : Operand} (h : isIndirect m = true) : isImmediate m = false := by
  cases m with
  | sic x addr => rfl
  | f3 fl disp | f4 fl addr =>
    obtain ⟨hn, -⟩ := Bool.and_eq_true_iff.1 h
    simp [isImmediate, hn]

/-- Without indirection the effective address is TA, indexed (R114). -/
theorem resolve_of_direct {s : State} {m : Operand} {ta : Int} (himm : isImmediate m = false)
    (hind : isIndirect m = false) (hta : targetAddress s m = .ok ta) :
    resolve s m = .ok (ta + indexPart s (isIndexed m)) := by
  simp [resolve, himm, hta, indirection, hind, indexing_eq]

theorem wordOfBytes_toNat (b0 b1 b2 : Byte) :
    (wordOfBytes b0 b1 b2).toNat = b0.toNat * 65536 + b1.toNat * 256 + b2.toNat := by
  rw [wordOfBytes, BitVec.toNat_ofNat]
  omega

/-- With indirection the word at TA is the address, indexed afterwards (R114). -/
theorem resolve_of_indirect {s : State} {m : Operand} {ta : Int} (hind : isIndirect m = true)
    (hta : targetAddress s m = .ok ta) : resolve s m = throughPointer s ta (isIndexed m) := by
  have himm := isImmediate_of_isIndirect hind
  rcases memRead3_cases s ta with ⟨hr, he⟩ | ⟨hr, he⟩
  · have hout : ¬(0 ≤ ta ∧ ta + 2 ≤ 0xFFFFF) := by simp [← inRange_three_iff, hr]
    rw [throughPointer, if_neg hout]
    simp [resolve, himm, hta, indirection, hind, he]
  · rw [throughPointer, if_pos ((inRange_three_iff ta).1 hr), ← wordOfBytes_toNat]
    simp [resolve, himm, hta, indirection, hind, he, indexing_eq]

/-- A TA that cannot be formed is the resolver's fault (R112). -/
theorem resolve_of_targetAddress_error {s : State} {m : Operand} {k : Fault} (himm : isImmediate m = false)
    (hta : targetAddress s m = .error k) : resolve s m = .error k := by
  simp [resolve, himm, hta]

/-- Relative to PC: the displacement is signed (R112). -/
theorem targetAddress_pc (s : State) (n i x : Bool) (disp : BitVec 12) :
    targetAddress s (.f3 ⟨n, i, x, false, true⟩ disp) = .ok (s.read .pc + disp.toInt) := by
  rw [← sext12_eq_toInt]
  rfl

/-- Neither or both of the base flags in Format 3 are invalid (R112). -/
theorem targetAddress_invalid (s : State) (n i x b : Bool) (disp : BitVec 12) :
    targetAddress s (.f3 ⟨n, i, x, b, b⟩ disp) = .error (.decodeFailure (.invalidAddressing ⟨n, i, x, b, b⟩)) := by
  cases b <;> rfl

/-- Settles O25: one row of the table after another, immediate, invalid, direct or through a pointer. -/
theorem resolveFollowsTheAddressingTable : Obligations.ResolveFollowsTheAddressingTable := by
  intro s
  refine ⟨?sic, ?immediate3, ?immediate4, ?invalid, ?relativePC, ?relativeB, ?absolute4, ?pointerPC, ?pointerB,
    ?pointer4⟩
  case sic => exact fun x addr => resolve_of_direct rfl rfl rfl
  case immediate3 => exact fun x b p disp => resolve_of_immediate rfl s
  case immediate4 => exact fun x b p addr => resolve_of_immediate rfl s
  case invalid => exact fun i x b disp => resolve_of_targetAddress_error rfl (targetAddress_invalid s true i x b disp)
  case relativePC => exact fun x disp => resolve_of_direct rfl rfl (targetAddress_pc s true true x disp)
  case relativeB => exact fun x disp => resolve_of_direct rfl rfl rfl
  case absolute4 => exact fun x b p addr => resolve_of_direct rfl rfl rfl
  case pointerPC => exact fun x disp => resolve_of_indirect rfl (targetAddress_pc s true false x disp)
  case pointerB => exact fun x disp => resolve_of_indirect rfl rfl
  case pointer4 => exact fun x b p addr => resolve_of_indirect rfl rfl

/-! ### The operand values -/

section
variable {s : State} {m : Operand}

/-- An immediate is the raw operand, or its low 8 bits; no memory is read (R115). -/
theorem operandWord_of_immediate (h : isImmediate m = true) : operandWord s m = .ok (rawOperand m : Int) := by
  simp [operandWord, resolve_of_immediate h, h]

theorem operandByte_of_immediate (h : isImmediate m = true) :
    operandByte s m = .ok (BitVec.ofNat 8 (rawOperand m)) := by
  simp [operandByte, resolve_of_immediate h, h]

theorem operandWord_of_resolve_error {k : Fault} (h : resolve s m = .error k) : operandWord s m = .error k := by
  simp [operandWord, h]

theorem operandByte_of_resolve_error {k : Fault} (h : resolve s m = .error k) : operandByte s m = .error k := by
  simp [operandByte, h]

section
variable {u : Int} (himm : isImmediate m = false) (hu : resolve s m = .ok u)
include himm hu

/-- An operand in memory is the signed word at the effective address, or its fault (R115). -/
theorem operandWord_of_resolve : operandWord s m = (memRead3 s u).map s24 := by
  simp only [operandWord, hu, himm, Bool.false_eq_true, if_false]
  cases memRead3 s u <;> rfl

theorem operandByte_of_resolve : operandByte s m = memRead1 s u := by
  simp [operandByte, hu, himm]

end
end

/-- Settles O26: an immediate, then both sides of the range rule for a word and for a byte, then the resolver's fault. -/
theorem operandValues : Obligations.OperandValues := by
  intro s m
  refine ⟨fun h => ⟨operandWord_of_immediate h, operandByte_of_immediate h⟩, fun u himm hu => ?_,
    fun k h => ⟨operandWord_of_resolve_error h, operandByte_of_resolve_error h⟩⟩
  rw [operandWord_of_resolve himm hu, operandByte_of_resolve himm hu, ← inRange_three_iff, ← inRange_one_iff]
  refine ⟨fun hr => ?_, fun hr => ?_, fun hr => ?_, fun hr => ?_⟩
  · rw [memRead3, if_pos hr, Except.map, s24_eq_toInt, wordOfBytes]
  · rw [memRead3, if_neg hr, Except.map]
  · rw [memRead1, if_pos hr]
  · rw [memRead1, if_neg hr]

/-! ### The faults of the address and operand -/

/-- Taking a fault changes the latch alone (60_exceptions.md R239). -/
theorem traps_of_exec {i : Instr} {s : State} {k : Fault} (h : exec i s = .next (s.setFault (some k))) : Traps i s k :=
  ⟨_, h, by simp [SameRegsExcept, SameMemory]⟩

/-- An instruction that goes on with a check or a read takes the fault it meets there. -/
theorem traps_of_onOk {α : Type} {i : Instr} {s : State} {k : Fault} {r : Except Fault α} {go : α → StepResult}
    (hr : r = .error k) (h : exec i s = onOk r s go) : Traps i s k :=
  traps_of_exec (by rw [h, hr, onOk_error])

theorem isImmediate_of_resolve_error {s : State} {m : Operand} {k : Fault} (h : resolve s m = .error k) :
    isImmediate m = false := by
  cases himm : isImmediate m with
  | false => rfl
  | true => cases (resolve_of_immediate himm s).symm.trans h

/-- LDF resolves its operand unless it is immediate (43_load_store.md R168). -/
theorem exec_ldf_of_not_immediate {m : Operand} (h : isImmediate m = false) (s : State) :
    exec (.ldf m) s = onOk (resolve s m) s fun u => onOk (memRead6 s u) s fun f => .next (s.setF f) := by
  simp [exec, execLdf, h]

/-- Settles O49: each of the instructions goes on with its operand word, its operand byte, or its resolved address. -/
theorem operandFaultsTrap : Obligations.OperandFaultsTrap := by
  intro s m k
  refine ⟨fun h => ?word, fun h => ?byte, fun h => ?address⟩
  case word =>
    and_intros
    all_goals exact traps_of_onOk h rfl
  case byte =>
    and_intros
    all_goals exact traps_of_onOk h rfl
  case address =>
    have hldf : Traps (.ldf m) s k :=
      traps_of_onOk h (exec_ldf_of_not_immediate (isImmediate_of_resolve_error h) s)
    refine ⟨?_, ?_, ?_, ?_, ?_, ?_, ?_, ?_, ?_, hldf, ?_, ?_, ?_, ?_, ?_⟩
    all_goals exact traps_of_onOk h rfl

end Sys2Proof.Machine
end

section
/-! SUPPORT. That every step completes, and what a step that takes a fault has changed (40_decode_and_address.md R100, R118,
60_exceptions.md R239). -/

namespace Sys2Proof.Machine

/-! ### Completion -/

theorem Effect.completes {i : Instr} {s : State} {r : StepResult} (h : Effect i s r) : ∃ t, r = .next t := by
  cases h with
  | _ => exact ⟨_, rfl⟩

/-- Settles O12: each case of a step answers a next state, an instruction by `exec_effect`. -/
theorem everyStepCompletes : Obligations.EveryStepCompletes := by
  intro s
  rcases step_cases s with ⟨-, he⟩ | ⟨-, d, -, he⟩ | ⟨-, -, ⟨k, u, -, he⟩ | ⟨i, u, -, he⟩⟩ <;> rw [he]
  · exact ⟨_, rfl⟩
  · exact ⟨_, rfl⟩
  · exact ⟨_, rfl⟩
  · exact (exec_effect i u).completes

/-! ### The other devices -/

section
variable {d e : Byte} (he : e ≠ d) (s : State)
include he

theorem devRead_device_ne : (devRead d s).state.device e = s.device e := by
  unfold devRead
  split
  iterate 2 rfl
  all_goals split <;> simp [DeviceResult.state, he]

theorem devWrite_device_ne (v : Byte) : (devWrite d v s).state.device e = s.device e := by
  unfold devWrite
  split
  · rfl
  all_goals split <;> simp [DeviceResult.state, he]

theorem devTest_device_ne : (devTest d s).state.device e = s.device e := by
  unfold devTest
  split <;> simp [DeviceResult.state, he]

/-- A device operation leaves the devices of the other slots (R118). -/
theorem finishRead_device_ne : (finishRead d s).device e = s.device e := by
  have h := devRead_device_ne he s
  unfold finishRead
  split <;> simp_all [DeviceResult.state]

theorem finishWrite_device_ne (v : Byte) : (finishWrite d v s).device e = s.device e := by
  have h := devWrite_device_ne he s v
  unfold finishWrite
  split <;> simp_all [DeviceResult.state]

theorem finishTest_device_ne : (finishTest d s).device e = s.device e := by
  have h := devTest_device_ne he s
  unfold finishTest
  split <;> simp_all [DeviceResult.state]

end

/-! ### The state a fault is taken in and the state it ends in -/

/-- The fault `k`, raised in `s`, leaves `t`: registers, F and memory stay; without a device operation everything but the
latch stays, and with one every other device does (60_exceptions.md R239). -/
structure TakesFault (s t : State) (k : Fault) : Prop where
  get : ∀ r, t.get r = s.get r
  regF : t.regF = s.regF
  mem : t.mem = s.mem
  eq_setFault : (∀ d, k ≠ .device d) → t = s.setFault (some k)
  device_ne : ∀ d e, k = .device d → e ≠ d → t.device e = s.device e

theorem takesFault_setFault (s : State) (k : Fault) : TakesFault s (s.setFault (some k)) k where
  get := State.get_setFault s _
  regF := rfl
  mem := rfl
  eq_setFault _ := rfl
  device_ne _ _ _ _ := rfl

/-- The fault of a device operation that leaves registers, F, memory and the other devices. -/
theorem takesFault_device {s t : State} {d : Byte} (hget : ∀ r, t.get r = s.get r) (hF : t.regF = s.regF)
    (hmem : t.mem = s.mem) (hdev : ∀ e, e ≠ d → t.device e = s.device e) : TakesFault s t (.device d) where
  get := hget
  regF := hF
  mem := hmem
  eq_setFault h := absurd rfl (h d)
  device_ne := by
    rintro _ e ⟨⟩ he
    exact hdev e he

section
variable {s : State} {k : Fault} (hs : s.fault = none)
include hs

/-- The fault of RD is that of its device, and A stays. -/
theorem takesFault_finishRead {d : Byte} (h : (finishRead d s).fault = some k) :
    TakesFault s (finishRead d s) k := by
  obtain ⟨t, ht, ⟨v, he⟩ | he | he⟩ := finishRead_cases d s
  · simp [he, ht.fault, hs] at h
  · simp [he, ht.fault, hs] at h
  · obtain rfl : .device d = k := by simpa [he] using h
    exact takesFault_device (fun r => by simp [he, ht.get]) (finishRead_regF d s) (finishRead_mem d s)
      fun e hne => finishRead_device_ne hne s

theorem takesFault_finishWrite {d v : Byte} (h : (finishWrite d v s).fault = some k) :
    TakesFault s (finishWrite d v s) k := by
  obtain ⟨t, ht, he | he⟩ := finishWrite_cases d v s
  · simp [he, ht.fault, hs] at h
  · obtain rfl : .device d = k := by simpa [he] using h
    exact takesFault_device (fun r => by simp [he, ht.get]) (finishWrite_regF d v s) (finishWrite_mem d v s)
      fun e hne => finishWrite_device_ne hne s v

theorem takesFault_finishTest {d : Byte} (h : (finishTest d s).fault = some k) :
    TakesFault s (finishTest d s) k := by
  obtain ⟨t, ht, ⟨v, he⟩ | he⟩ := finishTest_cases d s
  · simp [he, ht.fault, hs] at h
  · obtain rfl : .device d = k := by simpa [he] using h
    exact takesFault_device (fun r => by simp [he, ht.get]) (finishTest_regF d s) (finishTest_mem d s)
      fun e hne => finishTest_device_ne hne s

/-- An instruction that ends with a fault latched took that fault: of the outcomes of `Effect` the others leave the latch
empty. -/
theorem exec_takesFault {i : Instr} {t : State} (he : exec i s = .next t) (ht : t.fault = some k) :
    TakesFault s t k := by
  cases effect_of_exec he with
  | traps j => exact (Option.some.inj ht) ▸ takesFault_setFault s j
  | readsDevice _ d => exact takesFault_finishRead hs ht
  | writesDevice _ d v => exact takesFault_finishWrite hs ht
  | testsDevice _ d => exact takesFault_finishTest hs ht
  | keeps | sets | setsTwo | loadsFloat | stores => simp [hs] at ht

end

/-! ### A step that takes a fault -/

theorem afterFetch_of_waiting {s : State} {d : Byte} (h : s.waiting = some d) : s.afterFetch = s := by
  simp [State.afterFetch, h]

theorem afterFetch_of_instr {s t : State} {i : Instr} (hw : s.waiting = none) (h : fetchInstr s = .instr i t) :
    s.afterFetch = t := by
  simp [State.afterFetch, hw, h]

theorem afterFetch_of_raised {s t : State} {k : Fault} (hw : s.waiting = none) (h : fetchInstr s = .raised k t) :
    s.afterFetch = t := by
  simp [State.afterFetch, hw, h]

/-- A step fetches at most four bytes, and that moves PC past them and nothing else. -/
theorem afterFetch_eq (s : State) : ∃ n : Nat, n ≤ 4 ∧ s.afterFetch = s.write .pc (s.read .pc + (n : Int)) := by
  cases hw : s.waiting with
  | some d => exact ⟨0, by decide, by simp [afterFetch_of_waiting hw]⟩
  | none =>
    have hin := fetchInstr_within s
    cases hi : fetchInstr s with
    | instr i t =>
      rw [hi] at hin
      obtain ⟨-, j, -, hj, ht⟩ := hin
      exact ⟨j, hj, (afterFetch_of_instr hw hi).trans ht⟩
    | raised k t =>
      rw [hi] at hin
      obtain ⟨-, j, hj, ht⟩ := hin
      exact ⟨j, hj, (afterFetch_of_raised hw hi).trans ht⟩

/-- A step takes a fault in the state that its fetch left. -/
theorem step_takesFault {s t : State} {k : Fault} (hs : s.fault = none) (hst : step s = .next t)
    (ht : t.fault = some k) : TakesFault s.afterFetch t k := by
  rcases step_cases s with ⟨hf, -⟩ | ⟨-, d, hw, he⟩ | ⟨-, hw, ⟨j, u, hu, he⟩ | ⟨i, u, hu, he⟩⟩
  · exact absurd hs hf
  · rw [he] at hst
    cases hst
    rw [afterFetch_of_waiting hw]
    exact takesFault_finishRead hs ht
  · rw [he] at hst
    cases hst
    rw [afterFetch_of_raised hw hu]
    exact (Option.some.inj ht) ▸ takesFault_setFault u j
  · rw [he] at hst
    rw [afterFetch_of_instr hw hu]
    obtain ⟨-, v, rfl⟩ := fetchInstr_instr hu
    exact exec_takesFault (by simpa using hs) hst ht

/-- Settles O18: the fetch moves PC (`afterFetch_eq`), and the fault is taken there (`step_takesFault`). -/
theorem faultsArePrecise : Obligations.FaultsArePrecise := by
  intro s t k hs hst ht
  have hfault := step_takesFault hs hst ht
  obtain ⟨n, hn, hfetch⟩ := afterFetch_eq s
  obtain ⟨hrun, hspeed⟩ := step_keeps_clock hst
  refine ⟨hfault.get .pc, ⟨n, hn, ?fetched⟩, fun i m hw hd hm => ?decoded, fun r hr => ?regs, ?float, ?memory, hrun,
    hspeed, fun hk => ?rest, fun d e hk he => ?devices⟩
  case fetched => simp [hfault.get, hfetch]
  case decoded => simp [hfault.get, afterFetch_of_instr hw (fetchInstr_of_decode hd hm)]
  case regs =>
    have hpc : r ≠ .pc := by simpa using hr
    simp [hfault.get, hfetch, hpc]
  case float => simp [hfault.regF, hfetch]
  case memory => exact sameMemory_of_mem_eq (by simp [hfault.mem, hfetch])
  case rest => simp [hfault.eq_setFault hk, hfetch]
  case devices => simp [hfault.device_ne d e hk he, hfetch]

end Sys2Proof.Machine
end

section
/-! SUPPORT. The Format-2 register instructions (42_format2.md): the values they write, the check of their register fields,
and what a write of one register, or of X and then SW, leaves unchanged. -/

namespace Sys2Proof.Machine

/-! ### The values written -/

/-- What SW holds after a comparison (10_state.md R27). -/
@[simp] theorem trunc24_cmp (a b : Int) : trunc24 (cmp a b) = ccBits a b := by
  unfold cmp ccBits
  split
  · rfl
  · split <;> rfl

/-- The division formula of R145 is the library's division truncated toward zero. -/
theorem truncDiv_eq_tdiv (a b : Int) : truncDiv a b = a.tdiv b := by
  rw [truncDiv, ← Int.sign_mul_natAbs (a.tdiv b), Int.sign_tdiv, Int.natAbs_tdiv]
  split
  case isTrue hlt => simp [Nat.div_eq_of_lt hlt]
  case isFalse => rfl

/-- A count below the width needs no reduction, so the shifts of R147 are a rotation. -/
theorem rotateLeft24_eq_rotateLeft (u : Word) {c : Nat} (hc : c < 24) : rotateLeft24 u c = u.rotateLeft c := by
  rw [rotateLeft24, BitVec.rotateLeft_def, Nat.mod_eq_of_lt hc]

/-- The floor division of R148, held in 24 bits, is the arithmetic shift of the bits. -/
theorem trunc24_shiftRightFloor (u : Word) (c : Nat) : trunc24 (shiftRightFloor (s24 u) c) = u.sshiftRight c := by
  rw [shiftRightFloor, s24_eq_toInt, Int.fdiv_eq_ediv_of_nonneg _ (Int.natCast_nonneg _), ← Int.shiftRight_eq_div_pow]
  rfl

theorem trunc24_read_add_one (s : State) (r : Reg) : trunc24 (s.read r + 1) = s.get r + 1 := by
  have hone : trunc24 1 = 1 := rfl
  rw [trunc24, BitVec.ofInt_add, ← trunc24, ← trunc24, State.read, trunc24_s24, hone]

/-! ### The register fields -/

theorem eq_regIndex_of_slotOf {k : BitVec 4} {p : Reg} (h : slotOf k = some p) : k = regIndex p := by
  unfold slotOf at h
  split at h <;> cases h <;> exact BitVec.eq_of_toNat_eq (by assumption)

/-- The index of a slot passes the check (42_format2.md R141). -/
@[simp] theorem checkReg_regIndex (mn : String) (p : Reg) : checkReg mn (regIndex p) = .ok p := by
  cases p <;> rfl

/-- An index of no slot fails the check (42_format2.md R141). -/
theorem checkReg_of_slotOf_none {k : BitVec 4} (h : slotOf k = none) (mn : String) :
    checkReg mn k = .error (indexFault mn k) := by
  cases hc : checkReg mn k with
  | ok p => cases h.symm.trans (slotOf_of_checkReg hc)
  | error e =>
    rcases checkReg_error hc with ⟨rfl, rfl⟩ | ⟨hk, rfl⟩
    · rfl
    · have hne : k ≠ 6 := by
        rintro rfl
        exact absurd hk (by decide)
      rw [indexFault, if_neg hne]

/-- The check of the index of a slot goes on with this slot. -/
theorem onCheckReg_regIndex (mn : String) (p : Reg) (s : State) (go : Reg → StepResult) :
    onOk (checkReg mn (regIndex p)) s go = go p := by
  rw [checkReg_regIndex, onOk_ok]

/-- The check of two indices of slots goes on with these slots. -/
theorem withRegs_regIndex (mn : String) (p q : Reg) (s : State) (go : Reg → Reg → StepResult) :
    withRegs mn (regIndex p) (regIndex q) s go = go p q := by
  rw [withRegs, onCheckReg_regIndex, onCheckReg_regIndex]

/-- An instruction that begins by checking a field takes the fault of a field that names no slot. -/
theorem traps_of_first_field {i : Instr} {s : State} {mn : String} {r1 : BitVec 4} {go : Reg → StepResult}
    (h1 : slotOf r1 = none) (h : exec i s = onOk (checkReg mn r1) s go) : Traps i s (indexFault mn r1) :=
  traps_of_onOk (checkReg_of_slotOf_none h1 mn) h

/-- An instruction of two fields takes the fault of the second when the first names a slot. -/
theorem traps_of_second_field {i : Instr} {s : State} {mn : String} {r1 r2 : BitVec 4} {go : Reg → Reg → StepResult}
    (h1 : slotOf r1 ≠ none) (h2 : slotOf r2 = none) (h : exec i s = withRegs mn r1 r2 s go) :
    Traps i s (indexFault mn r2) := by
  obtain ⟨p, hp⟩ := Option.ne_none_iff_exists'.mp h1
  obtain rfl := eq_regIndex_of_slotOf hp
  exact traps_of_onOk (checkReg_of_slotOf_none h2 mn) (by rw [h, withRegs, onCheckReg_regIndex])

/-! ### What a write of registers leaves unchanged -/

/-- An instruction that ends by setting one register writes that register and nothing else. -/
theorem writesReg_of_set {i : Instr} {s : State} {r : Reg} {w : Word} (h : exec i s = .next (s.set r w)) :
    WritesReg i s r w := by
  refine ⟨_, h, State.get_set_self s r w, fun q hq => ?_, State.regF_set s r w, State.byteAt_set s r w, ?_⟩
  · exact State.get_set_ne s w (by simpa using hq)
  · simp [SameRest]

/-- An instruction that ends by writing an integer to one register writes the integer's 24 bits there and nothing else. -/
theorem writesReg_of_write {i : Instr} {s : State} {r : Reg} {v : Int} (h : exec i s = .next (s.write r v)) :
    WritesReg i s r (trunc24 v) :=
  writesReg_of_set h

/-- An instruction that ends by incrementing X and then comparing writes X and SW and nothing else. -/
theorem writesRegs_of_incrementX_compare {i : Instr} {s : State} {a b : Int}
    (h : exec i s = .next (s.incrementX.compare a b)) :
    WritesRegs i s [.x, .sw] fun t => t.get .x = s.get .x + 1 ∧ t.get .sw = ccBits a b := by
  refine ⟨_, h, ⟨?x, ?sw⟩, fun r hr => ?regs, ?float, fun j => ?memory, ?rest⟩
  case x => simp [get_incrementX_compare, trunc24_read_add_one]
  case sw => simp [get_incrementX_compare]
  case regs =>
    obtain ⟨hx, hsw⟩ : r ≠ .x ∧ r ≠ .sw := by simpa using hr
    simp [get_incrementX_compare, hx, hsw]
  all_goals simp [SameRest, State.incrementX, State.compare]

/-- A register read after the increment of X: the new X, or another slot as it was (42_format2.md R151). -/
theorem read_incrementX (s : State) (p : Reg) :
    s.incrementX.read p = if p = .x then (s.get .x + 1).toInt else s.read p := by
  rw [State.incrementX, State.read_write, trunc24_read_add_one, s24_eq_toInt]

/-! ### The instructions -/

/-- Settles O41: the checks pass, and one register is written. -/
theorem registerArithmeticResult : Obligations.RegisterArithmeticResult := fun s p q =>
  ⟨writesReg_of_write (withRegs_regIndex "ADDR" p q s _), writesReg_of_write (withRegs_regIndex "SUBR" p q s _),
    writesReg_of_write (withRegs_regIndex "MULR" p q s _)⟩

/-- Settles O42: past the check for zero, one register takes the quotient. -/
theorem registerDivisionResult : Obligations.RegisterDivisionResult := by
  intro s p q hdiv
  rw [← truncDiv_eq_tdiv]
  exact writesReg_of_write ((withRegs_regIndex "DIVR" p q s _).trans (if_neg hdiv))

/-- Settles O43: the checks pass, and SW is written. -/
theorem registerCompareResult : Obligations.RegisterCompareResult := by
  intro s p q
  rw [← trunc24_cmp]
  exact writesReg_of_write (withRegs_regIndex "COMPR" p q s _)

/-- Settles O44: a count is at most 16, so the rotation is the library's; the shift is so for every count. -/
theorem shiftResult : Obligations.ShiftResult := by
  intro s p c
  have hcount : shiftCount c < 24 := by
    have := c.isLt
    rw [shiftCount]
    omega
  constructor
  · rw [← shiftCount, ← rotateLeft24_eq_rotateLeft _ hcount]
    exact writesReg_of_set (onCheckReg_regIndex "SHIFTL" p s _)
  · rw [← shiftCount, ← trunc24_shiftRightFloor]
    exact writesReg_of_write (onCheckReg_regIndex "SHIFTR" p s _)

/-- Settles O45: the signed reading that RMO writes holds the same bits. -/
theorem moveAndClearResult : Obligations.MoveAndClearResult := by
  intro s p q r2
  constructor
  · rw [← trunc24_s24 (s.get p)]
    exact writesReg_of_write (withRegs_regIndex "RMO" p q s _)
  · exact writesReg_of_write (v := 0) (onCheckReg_regIndex "CLEAR" p s _)

/-- Settles O46: both sides of the comparison are read from the incremented X on. -/
theorem registerIncrementAndCompareResult : Obligations.RegisterIncrementAndCompareResult := by
  intro s p r2
  have hexec : exec (.tixr (regIndex p) r2) s =
      .next (s.incrementX.compare (s.incrementX.read .x) (s.incrementX.read p)) :=
    onCheckReg_regIndex "TIXR" p s _
  simpa only [read_incrementX, if_true] using writesRegs_of_incrementX_compare hexec

/-- Settles O47: each instruction begins with the check of r1, and goes on, if it has two register fields, with that of
r2. -/
theorem badRegisterIndexTraps : Obligations.BadRegisterIndexTraps := by
  intro s r1 r2
  refine ⟨fun h1 => ?first, fun h1 h2 => ?second⟩
  case first =>
    and_intros
    all_goals exact traps_of_first_field h1 rfl
  case second =>
    and_intros
    all_goals exact traps_of_second_field h1 h2 rfl

end Sys2Proof.Machine
end

section
/-! SUPPORT. The load and store instructions (43_load_store.md): what a readable operand puts into a register or into F,
and what a store leaves in memory or, out of range, does not (20_memory.md R53). -/

namespace Sys2Proof.Machine

/-! ### The values loaded -/

/-- Replacing the low byte keeps bits 23 to 8 in front of the new byte. -/
theorem withLowByte_eq_append (w : Word) (v : Byte) : withLowByte w v = w.extractLsb' 8 16 ++ v := by
  have hmask : ∀ j < 24, (0xFFFF00#24).getLsbD j = !decide (j < 8) := by decide
  apply BitVec.eq_of_getLsbD_eq
  intro j hj
  rw [withLowByte, BitVec.getLsbD_or, BitVec.getLsbD_and, hmask j hj, BitVec.getLsbD_setWidth, BitVec.getLsbD_append]
  by_cases hlow : j < 8
  · simp [hlow, hj]
  · have hhigh : 8 + (j - 8) = j := by omega
    have hin : j - 8 < 16 := by omega
    simp [hlow, hhigh, hin, BitVec.getLsbD_of_ge v j (by omega)]

/-- The low byte replaced, as a number (43_load_store.md R167). -/
theorem withLowByte_eq_ofNat (w : Word) (v : Byte) :
    withLowByte w v = BitVec.ofNat 24 (w.toNat / 256 * 256 + v.toNat) := by
  apply BitVec.eq_of_toNat_eq
  rw [withLowByte_eq_append, BitVec.toNat_append, ← Nat.shiftLeft_add_eq_or_of_lt v.isLt, BitVec.extractLsb'_toNat,
    BitVec.toNat_ofNat, Nat.shiftLeft_eq, Nat.shiftRight_eq_div_pow]
  omega

/-- A float in range is read as its six bytes in address order (00_scope.md R12). -/
theorem memRead6_of_inRange {s : State} {u : Int} (hr : inRange u 6 = true) :
    ∃ f, memRead6 s u = .ok f ∧ f.toList = s.bytesFrom u.toNat 6 :=
  ⟨_, if_pos hr, rfl⟩

theorem getElem_bytesFrom (s : State) {a n k : Nat} (hk : k < (s.bytesFrom a n).length) :
    (s.bytesFrom a n)[k] = s.byteAt (a + k) := by
  simp [State.bytesFrom]

/-! ### The loads -/

/-- A word load of a readable operand writes its 24 bits to the register and nothing else. -/
theorem writesReg_of_loadWord {i : Instr} {s : State} {m : Operand} {r : Reg} {v : Int} (hv : operandWord s m = .ok v)
    (h : exec i s = loadWord r m s) : WritesReg i s r (trunc24 v) :=
  writesReg_of_write (by rw [h, loadWord, hv, onOk_ok])

/-- Settles O27: each of the six is a word load of its register. -/
theorem wordLoadResult : Obligations.WordLoadResult := by
  intro s m v hv
  and_intros
  all_goals exact writesReg_of_loadWord hv rfl

/-- Settles O28: past the operand byte, A is set to itself with the low byte replaced. -/
theorem byteLoadResult : Obligations.ByteLoadResult := by
  intro s m v hv
  have hexec : exec (.ldch m) s = .next (s.set .a (withLowByte (s.get .a) v)) := by
    rw [exec, execLdch, hv, onOk_ok]
  rw [← withLowByte_eq_ofNat]
  exact writesReg_of_set hexec

/-- LDF reads six bytes at the resolved address (43_load_store.md R168). -/
theorem exec_ldf_of_resolve {s : State} {m : Operand} {u : Int} (himm : isImmediate m = false)
    (hu : resolve s m = .ok u) : exec (.ldf m) s = onOk (memRead6 s u) s fun f => .next (s.setF f) := by
  rw [exec_ldf_of_not_immediate himm, hu, onOk_ok]

/-- Settles O29: the six bytes are read, and F alone is replaced by them. -/
theorem floatLoadResult : Obligations.FloatLoadResult := by
  intro s m u himm hu hlo hhi
  obtain ⟨f, hread, hbytes⟩ := memRead6_of_inRange (s := s) ((inRange_six_iff u).2 ⟨hlo, hhi⟩)
  refine ⟨s.setF f, by rw [exec_ldf_of_resolve himm hu, hread, onOk_ok], fun k hk => ?bytes,
    fun r _ => State.get_setF s f r, State.byteAt_setF s f, ?rest⟩
  case bytes => simp only [State.regF_setF, hbytes, getElem_bytesFrom]
  case rest => simp [SameRest]

/-- Settles O30: the immediate form is refused before the operand is resolved. -/
theorem immediateFloatLoadTraps : Obligations.ImmediateFloatLoadTraps := fun _ _ himm =>
  traps_of_exec (if_pos himm)

/-! ### The stores -/

/-- A store past the resolver is a memory write at the resolved address. -/
theorem storeBytes_of_resolve {s : State} {m : Operand} {u : Int} (hu : resolve s m = .ok u) (bs : List Byte) :
    storeBytes bs m s = onOk (memWrite s u bs) s .next := by
  rw [storeBytes, hu, onOk_ok]

section
variable {i : Instr} {s : State} {m : Operand} {u : Int} (hu : resolve s m = .ok u)
include hu

/-- A store wholly in memory leaves exactly its bytes there. -/
theorem storesBytes_of_storeBytes {bs : List Byte} (hr : inRange u bs.length = true)
    (h : exec i s = storeBytes bs m s) : StoresBytes i s u.toNat bs := by
  have hexec : exec i s = .next (s.setMem (s.mem.writeBytes u.toNat bs)) := by
    rw [h, storeBytes_of_resolve hu, memWrite, if_pos hr, onOk_ok]
  exact ⟨_, hexec, fun k hk => Memory.read_writeBytes_add s.mem u.toNat hk,
    sameMemoryOutside_writeBytes s (Int.natCast_nonneg u.toNat) bs, sameRegsExcept_setMem [] s _, rfl,
    sameRest_setMem s _⟩

/-- A store not wholly in memory faults with the effective address before any byte is stored (20_memory.md R53). -/
theorem traps_of_storeBytes {bs : List Byte} (hr : ¬inRange u bs.length = true) (h : exec i s = storeBytes bs m s) :
    Traps i s (.addressRange u) :=
  traps_of_onOk (if_neg hr) (h.trans (storeBytes_of_resolve hu bs))

theorem storesBytes_of_storeWord {r : Reg} (hr : inRange u 3 = true) (h : exec i s = storeWord r m s) :
    StoresBytes i s u.toNat (bytesOfWord (s.get r)) :=
  storesBytes_of_storeBytes hu hr h

theorem traps_of_storeWord {r : Reg} (hr : ¬inRange u 3 = true) (h : exec i s = storeWord r m s) :
    Traps i s (.addressRange u) :=
  traps_of_storeBytes (bs := bytesOfWord (s.get r)) hu hr h

end

/-- Settles O31: each of the seven is a word store of its register. -/
theorem wordStoreResult : Obligations.WordStoreResult := by
  intro s m u hu hlo hhi bytes
  have hr : inRange u 3 = true := (inRange_three_iff u).2 ⟨hlo, hhi⟩
  and_intros
  all_goals exact storesBytes_of_storeWord hu hr rfl

/-- Settles O32: STCH and STF are stores of one byte of A and of the six bytes of F. -/
theorem byteAndFloatStoreResult : Obligations.ByteAndFloatStoreResult := fun _ _ u hu hlo =>
  ⟨fun hhi => storesBytes_of_storeBytes hu ((inRange_one_iff u).2 ⟨hlo, hhi⟩) rfl,
    fun hhi => storesBytes_of_storeBytes hu ((inRange_six_iff u).2 ⟨hlo, hhi⟩) rfl⟩

/-- Settles O50: for a word, a byte and a float, outside the bounds the range rule fails. -/
theorem outOfRangeStoresTrap : Obligations.OutOfRangeStoresTrap := by
  intro s m u hu
  refine ⟨fun hout => ?word, fun hout => ?byte, fun hout => ?float⟩
  case word =>
    have hr : ¬inRange u 3 = true := by
      rw [inRange_three_iff]
      omega
    and_intros
    all_goals exact traps_of_storeWord hu hr rfl
  case byte =>
    have hr : ¬inRange u 1 = true := by
      rw [inRange_one_iff]
      omega
    exact traps_of_storeBytes (bs := [lowByte (s.get .a)]) hu hr rfl
  case float =>
    have hr : ¬inRange u 6 = true := by
      rw [inRange_six_iff]
      omega
    exact ⟨traps_of_storeBytes (bs := s.regF.toList) hu hr rfl,
      fun himm => traps_of_onOk (if_neg hr) (exec_ldf_of_resolve himm hu)⟩

end Sys2Proof.Machine
end

section
/-! SUPPORT. The arithmetic, logic and compare instructions with a memory operand (44_arith_logic_compare.md): each goes on
with its readable operand word and ends in a write of A, of SW, or of X and then SW. -/

namespace Sys2Proof.Machine

/-! ### What each instruction does with a readable operand -/

section
variable {s : State} {m : Operand} {v : Int} (hv : operandWord s m = .ok v)
include hv

theorem exec_div_of_ne_zero (hne : v ≠ 0) : exec (.div m) s = .next (s.write .a (truncDiv (s.read .a) v)) := by
  rw [exec, execDiv, hv, onOk_ok, if_neg hne]

theorem exec_and_of_operandWord : exec (.and m) s = .next (s.set .a (s.get .a &&& trunc24 v)) := by
  rw [exec, execAnd, hv, onOk_ok]

theorem exec_or_of_operandWord : exec (.or m) s = .next (s.set .a (s.get .a ||| trunc24 v)) := by
  rw [exec, execOr, hv, onOk_ok]

theorem exec_comp_of_operandWord : exec (.comp m) s = .next (s.compare (s.read .a) v) := by
  rw [exec, execComp, hv, onOk_ok]

/-- TIX reads the operand with the old X and compares the new one with it (R198). -/
theorem exec_tix_of_operandWord : exec (.tix m) s = .next (s.incrementX.compare (s.incrementX.read .x) v) := by
  rw [exec, execTix, hv, onOk_ok]

/-- An arithmetic instruction writes the 24 bits of the exact result to A and nothing else (R190). -/
theorem writesReg_of_arithA {i : Instr} {f : Int → Int → Int} (h : exec i s = arithA f m s) :
    WritesReg i s .a (trunc24 (f (s.read .a) v)) :=
  writesReg_of_write (by rw [h, arithA, hv, onOk_ok])

end

/-! ### The instructions -/

/-- Settles O33: each of the three is the arithmetic of R190 with its operation. -/
theorem arithmeticResult : Obligations.ArithmeticResult := fun _ _ _ hv =>
  ⟨writesReg_of_arithA hv rfl, writesReg_of_arithA hv rfl, writesReg_of_arithA hv rfl⟩

/-- Settles O34: past the check for zero, the quotient of the model is the library's truncated division. -/
theorem divisionResult : Obligations.DivisionResult := by
  intro s m v hv hne
  rw [← truncDiv_eq_tdiv]
  exact writesReg_of_write (exec_div_of_ne_zero hv hne)

/-- Settles O36: past the operand word, A is set to the bitwise result. -/
theorem logicResult : Obligations.LogicResult := fun _ _ _ hv =>
  ⟨writesReg_of_set (exec_and_of_operandWord hv), writesReg_of_set (exec_or_of_operandWord hv)⟩

/-- Settles O37: past the operand word, SW is written with the result of the comparison. -/
theorem compareResult : Obligations.CompareResult := by
  intro s m v hv
  rw [← trunc24_cmp]
  exact writesReg_of_write (exec_comp_of_operandWord hv)

/-- Settles O38: X and SW are written, and the X compared is the incremented one. -/
theorem incrementAndCompareResult : Obligations.IncrementAndCompareResult := by
  intro s m v hv
  simpa only [read_incrementX, if_true] using writesRegs_of_incrementX_compare (exec_tix_of_operandWord hv)

end Sys2Proof.Machine
end

section
/-! SUPPORT. Control transfer (45_jump.md): past the resolver a jump sets PC, to the target or to what it holds, and JSUB
sets L before it. -/

namespace Sys2Proof.Machine

/-- A register reads as zero exactly when all its bits are zero (10_state.md R21). -/
theorem read_eq_zero_iff (s : State) (r : Reg) : s.read r = 0 ↔ s.get r = 0 := by
  rw [State.read, s24_eq_toInt, ← BitVec.toInt_zero (w := 24), BitVec.toInt_inj]
  rfl

/-- An instruction that ends by setting two registers sets those registers and nothing else. -/
theorem writesRegs_of_set_set {i : Instr} {s : State} {r q : Reg} {v w : Word} (hne : r ≠ q)
    (h : exec i s = .next ((s.set r v).set q w)) :
    WritesRegs i s [r, q] fun t => t.get r = v ∧ t.get q = w := by
  refine ⟨_, h, ⟨by simp [hne], by simp⟩, fun p hp => ?regs, by simp, fun a => by simp, by simp [SameRest]⟩
  case regs =>
    obtain ⟨hr, hq⟩ : p ≠ r ∧ p ≠ q := by simpa using hp
    rw [State.get_set_ne _ _ hq, State.get_set_ne _ _ hr]

section
variable {i : Instr} {s : State} {m : Operand} {u : Int} (hu : resolve s m = .ok u)
include hu

/-- A jump whose target resolves completes; one that is not taken sets PC to what it holds (R210). -/
theorem jumpIf_of_resolve (c : Prop) [Decidable c] :
    jumpIf (decide c) m s = .next (s.set .pc (if c then trunc24 u else s.get .pc)) := by
  rw [jumpIf, hu, onOk_ok]
  by_cases hc : c
  · simp [hc, State.write]
  · simp [hc]

theorem writesReg_of_jumpIf {c : Prop} [Decidable c] (h : exec i s = jumpIf (decide c) m s) :
    WritesReg i s .pc (if c then trunc24 u else s.get .pc) :=
  writesReg_of_set (h.trans (jumpIf_of_resolve hu c))

/-- JSUB sets L, then PC (R215). -/
theorem exec_jsub_of_resolve :
    exec (.jsub m) s = .next ((s.set .l (s.get .pc)).set .pc (trunc24 u)) := by
  rw [exec, execJsub, hu, onOk_ok, State.write]

end

/-- Settles O39: the four are one conditional jump, J on a condition that always holds, JEQ on SW reading as zero. -/
theorem jumpResult : Obligations.JumpResult := by
  intro s m u hu
  refine ⟨?j, ?jeq, writesReg_of_jumpIf hu rfl, writesReg_of_jumpIf hu rfl⟩
  case j => simpa using writesReg_of_jumpIf (i := .j m) (c := True) hu rfl
  case jeq => simpa only [read_eq_zero_iff] using writesReg_of_jumpIf (i := .jeq m) (c := s.read .sw = 0) hu rfl

/-- Settles O40: JSUB sets L and PC, and RSUB, without resolving anything, sets PC to L. -/
theorem callAndReturnResult : Obligations.CallAndReturnResult :=
  ⟨fun _ _ _ hu => writesRegs_of_set_set (by decide) (exec_jsub_of_resolve hu), fun _ _ => writesReg_of_set rfl⟩

end Sys2Proof.Machine
end

section
/-! SUPPORT. The device instructions (46_device_system.md): past their operand byte RD, WD and TD are one device
operation, which changes the device of one slot, and besides it RD the low byte of A, TD the register SW. -/

namespace Sys2Proof.Machine

/-! ### What a device operation leaves alone, whatever is answered -/

theorem DeviceStep.run {s t : State} (h : DeviceStep s t) : t.run = s.run := by
  obtain ⟨-, -, -, -, -, hrun, -⟩ := h
  exact hrun

theorem DeviceStep.speed {s t : State} (h : DeviceStep s t) : t.speed = s.speed := by
  obtain ⟨-, -, -, -, -, -, hspeed, -⟩ := h
  exact hspeed

/-- What is the same in `t` as in `s` after an operation on the device of slot `d`: all but registers of a list, that
device (its variant does stay), the latch, the wait and the environment's answers. -/
structure DeviceFrame (rs : List Reg) (d : Byte) (s t : State) : Prop where
  regs : SameRegsExcept rs s t
  regF : t.regF = s.regF
  memory : SameMemory s t
  run : t.run = s.run
  speed : t.speed = s.speed
  others : ∀ e, e ≠ d → t.device e = s.device e
  kind : (t.device d).kind = (s.device d).kind

section
variable (d v : Byte) (s : State)

theorem devRead_kind : ((devRead d s).state.device d).kind = (s.device d).kind := by
  unfold devRead
  split
  iterate 2 rfl
  all_goals split <;> simp [DeviceResult.state, Device.delivered, Device.accessed, Device.afterFailure]

theorem devWrite_kind : ((devWrite d v s).state.device d).kind = (s.device d).kind := by
  unfold devWrite
  split
  · rfl
  all_goals split <;> simp [DeviceResult.state, Device.received, Device.accessed, Device.afterFailure]

theorem devTest_kind : ((devTest d s).state.device d).kind = (s.device d).kind := by
  unfold devTest
  split <;> simp [DeviceResult.state, Device.tested]

/-! What follows a device operation changes no device. -/

theorem finishRead_device (e : Byte) : (finishRead d s).device e = (devRead d s).state.device e := by
  unfold finishRead
  split <;> simp [*, DeviceResult.state]

theorem finishWrite_device (e : Byte) : (finishWrite d v s).device e = (devWrite d v s).state.device e := by
  unfold finishWrite
  split <;> simp [*, DeviceResult.state]

theorem finishTest_device (e : Byte) : (finishTest d s).device e = (devTest d s).state.device e := by
  unfold finishTest
  split <;> simp [*, DeviceResult.state]

theorem finishRead_frame : DeviceFrame [.a] d s (finishRead d s) where
  regs := sameRegsExcept_finishRead d s
  regF := finishRead_regF d s
  memory := sameMemory_of_mem_eq (finishRead_mem d s)
  run := by obtain ⟨t, ht, ⟨v, he⟩ | he | he⟩ := finishRead_cases d s <;> simp [he, ht.run]
  speed := by obtain ⟨t, ht, ⟨v, he⟩ | he | he⟩ := finishRead_cases d s <;> simp [he, ht.speed]
  others _ he := finishRead_device_ne he s
  kind := by rw [finishRead_device, devRead_kind]

theorem finishWrite_frame : DeviceFrame [] d s (finishWrite d v s) where
  regs := sameRegsExcept_finishWrite d v s
  regF := finishWrite_regF d v s
  memory := sameMemory_of_mem_eq (finishWrite_mem d v s)
  run := by obtain ⟨t, ht, he | he⟩ := finishWrite_cases d v s <;> simp [he, ht.run]
  speed := by obtain ⟨t, ht, he | he⟩ := finishWrite_cases d v s <;> simp [he, ht.speed]
  others _ he := finishWrite_device_ne he s v
  kind := by rw [finishWrite_device, devWrite_kind]

theorem finishTest_frame : DeviceFrame [.sw] d s (finishTest d s) where
  regs := sameRegsExcept_finishTest d s
  regF := finishTest_regF d s
  memory := sameMemory_of_mem_eq (finishTest_mem d s)
  run := by obtain ⟨t, ht, ⟨v, he⟩ | he⟩ := finishTest_cases d s <;> simp [he, ht.run]
  speed := by obtain ⟨t, ht, ⟨v, he⟩ | he⟩ := finishTest_cases d s <;> simp [he, ht.speed]
  others _ he := finishTest_device_ne he s
  kind := by rw [finishTest_device, devTest_kind]

end

/-! ### The read -/

section
variable {d : Byte} {s : State}

/-- An output or error device yields 0 without being asked (60_exceptions.md R247). -/
theorem devRead_of_outputOrError (h : (s.device d).kind = .output ∨ (s.device d).kind = .error) :
    devRead d s = .done 0 s := by
  rcases h with hkind | hkind <;> simp [devRead, hkind]

/-- How a read ends that the environment is asked for. -/
def readOutcome (d : Byte) (s : State) : ReadAnswer → DeviceResult Byte
  | .byte v => .done v (s.readAnswered.setDevice d (Device.delivered (s.device d)))
  | .endOfStream => .done 0 (s.readAnswered.setDevice d (Device.accessed (s.device d)))
  | .noByteYet => .blocked s.readAnswered
  | .failed left => .failed (s.readAnswered.setDevice d (Device.afterFailure (s.device d) left))

/-- The other devices are read by asking the environment. -/
theorem devRead_of_asked (hout : (s.device d).kind ≠ .output) (herr : (s.device d).kind ≠ .error) {ans : ReadAnswer}
    (h : s.readAnswer d = ans) : devRead d s = readOutcome d s ans := by
  subst h
  unfold devRead
  split
  case h_1 hkind => exact absurd hkind hout
  case h_2 hkind => exact absurd hkind herr
  all_goals cases s.readAnswer d <;> rfl

theorem deviceStep_of_devRead {r : DeviceResult Byte} (h : devRead d s = r) : DeviceStep s r.state :=
  h ▸ devRead_step d s

variable {t : State}

/-- A read that completes ends the wait with its byte in the low byte of A (R221). -/
theorem finishRead_of_done {v : Byte} (h : devRead d s = .done v t) :
    (finishRead d s).get .a = BitVec.ofNat 24 ((s.get .a).toNat / 256 * 256 + v.toNat) ∧
      (finishRead d s).waiting = none ∧ (finishRead d s).fault = s.fault := by
  have hstep : DeviceStep s t := deviceStep_of_devRead h
  have he : finishRead d s = (t.set .a (withLowByte (t.get .a) v)).setWaiting none := by rw [finishRead, h]
  simp [he, hstep.get, hstep.fault, withLowByte_eq_ofNat]

/-- A read without a byte leaves the step waiting on the device (60_exceptions.md R249). -/
theorem finishRead_of_blocked (h : devRead d s = .blocked t) :
    (finishRead d s).waiting = some d ∧ (finishRead d s).get .a = s.get .a ∧ (finishRead d s).fault = s.fault := by
  have hstep : DeviceStep s t := deviceStep_of_devRead h
  have he : finishRead d s = t.setWaiting (some d) := by rw [finishRead, h]
  simp [he, hstep.get, hstep.fault]

/-- A read that fails ends the wait with DeviceFault, and A stays (60_exceptions.md R234). -/
theorem finishRead_of_failed (h : devRead d s = .failed t) :
    (finishRead d s).fault = some (.device d) ∧ (finishRead d s).waiting = none ∧
      (finishRead d s).get .a = s.get .a := by
  have hstep : DeviceStep s t := deviceStep_of_devRead h
  have he : finishRead d s = (t.setWaiting none).setFault (some (.device d)) := by rw [finishRead, h]
  simp [he, hstep.get]

/-! ### The write and the test -/

/-- A write to an input device is ignored without asking (60_exceptions.md R247). -/
theorem finishWrite_of_input (h : (s.device d).kind = .input) (v : Byte) : finishWrite d v s = s := by
  simp [finishWrite, devWrite, h]

/-- A write that the environment accepts hands the byte to the device (R222). -/
theorem finishWrite_of_accepted {v : Byte} (hkind : (s.device d).kind ≠ .input) (h : s.writeAnswer d v = .accepted) :
    finishWrite d v s = s.writeAnswered.setDevice d (Device.received (s.device d) v) := by
  have hdone : devWrite d v s = .done () (s.writeAnswered.setDevice d (Device.received (s.device d) v)) := by
    unfold devWrite
    split
    case h_1 hin => exact absurd hin hkind
    all_goals simp [h]
  rw [finishWrite, hdone]

/-- A test that is answered writes the condition code of the answer (R223). -/
theorem finishTest_of_done {b : Bool} (h : devTest d s = .done b t) :
    finishTest d s = t.write .sw (if b then -1 else 0) := by
  rw [finishTest, h]
  cases b <;> rfl

/-! ### The instructions -/

variable {m : Operand} (hd : operandByte s m = .ok d)
include hd

theorem exec_rd_of_operandByte : exec (.rd m) s = .next (finishRead d s) := by
  rw [exec, execRd, hd, onOk_ok]

theorem exec_wd_of_operandByte : exec (.wd m) s = .next (finishWrite d (lowByte (s.get .a)) s) := by
  rw [exec, execWd, hd, onOk_ok]

theorem exec_td_of_operandByte : exec (.td m) s = .next (finishTest d s) := by
  rw [exec, execTd, hd, onOk_ok]

end

/-- Settles O51: the frame is that of every read, and what A, the latch and the wait hold follows from how the read
ended. -/
theorem readDeviceResult : Obligations.ReadDeviceResult := by
  intro s m d hd lowA frame
  have hexec := exec_rd_of_operandByte hd
  have hkept := finishRead_frame d s
  have hframe : frame (finishRead d s) :=
    ⟨hkept.regs, hkept.regF, hkept.memory, hkept.run, hkept.speed, hkept.others, hkept.kind⟩
  refine ⟨fun hkind => ?unasked, fun hout herr =>
    ⟨fun v hv => ?byte, fun hend => ?endOfStream, fun hnone => ?noByteYet, fun left hfail => ?failed⟩⟩
  case unasked =>
    have hread := devRead_of_outputOrError hkind
    obtain ⟨ha, hwait, hfault⟩ := finishRead_of_done hread
    exact ⟨_, hexec, ha, hwait, hfault, hframe, by rw [finishRead_device, hread, DeviceResult.state]⟩
  case byte =>
    have hread := devRead_of_asked hout herr hv
    obtain ⟨ha, hwait, hfault⟩ := finishRead_of_done hread
    have hdev : (finishRead d s).device d = Device.delivered (s.device d) := by
      simp [finishRead_device, hread, readOutcome, DeviceResult.state]
    refine ⟨_, hexec, ha, hwait, hfault, hframe, ?_⟩
    simp +contextual [hdev, Device.delivered, Device.accessed]
  case endOfStream =>
    have hread := devRead_of_asked hout herr hend
    obtain ⟨ha, hwait, hfault⟩ := finishRead_of_done hread
    have hdev : (finishRead d s).device d = Device.accessed (s.device d) := by
      simp [finishRead_device, hread, readOutcome, DeviceResult.state]
    refine ⟨_, hexec, ha, hwait, hfault, hframe, ?_⟩
    simp +contextual [hdev, Device.accessed]
  case noByteYet =>
    have hread := devRead_of_asked hout herr hnone
    obtain ⟨hwait, ha, hfault⟩ := finishRead_of_blocked hread
    exact ⟨_, hexec, hwait, ha, hfault, hframe, by rw [finishRead_device, hread]; rfl⟩
  case failed =>
    obtain ⟨hfault, hwait, ha⟩ := finishRead_of_failed (devRead_of_asked hout herr hfail)
    exact ⟨_, hexec, hfault, hwait, ha, hframe⟩

/-- Settles O52: the byte written is the low byte of A, and a device that takes it receives it. -/
theorem writeDeviceResult : Obligations.WriteDeviceResult := by
  intro s m d hd
  refine ⟨fun hkind => ?ignored, fun v hv hkind hacc => ?taken⟩
  case ignored => rw [exec_wd_of_operandByte hd, finishWrite_of_input hkind]
  case taken =>
    have hlow : lowByte (s.get .a) = v := BitVec.eq_of_toNat_eq (by rw [lowByte_toNat, hv])
    have hexec : exec (.wd m) s = .next (finishWrite d v s) := by rw [exec_wd_of_operandByte hd, hlow]
    have he := finishWrite_of_accepted hkind hacc
    have hdev : (finishWrite d v s).device d = Device.received (s.device d) v := by simp [he]
    have hframe := finishWrite_frame d v s
    exact ⟨_, hexec, by rw [hdev]; rfl, hframe.kind, by rw [hdev]; rfl, hframe.others, hframe.regs, hframe.regF,
      hframe.memory, by simp [he], by simp [he], hframe.run, hframe.speed⟩

/-- Settles O53: either answer completes the test, and the two differ in the value that SW takes. -/
theorem testDeviceResult : Obligations.TestDeviceResult := by
  intro s m d hd frame
  have completes (b : Bool) (h : devTest d s = .done b (s.testAnswered.setDevice d (Device.tested (s.device d)))) :
      ∃ t, exec (.td m) s = .next t ∧ t.get .sw = trunc24 (if b then -1 else 0) ∧ frame t := by
    have he := finishTest_of_done h
    have hdev : (finishTest d s).device d = Device.tested (s.device d) := by simp [he]
    have hframe := finishTest_frame d s
    exact ⟨_, exec_td_of_operandByte hd, by rw [he, State.get_write, if_pos rfl], hframe.regs, hframe.regF,
      hframe.memory, by simp [he], by simp [he], hframe.run, hframe.speed, hframe.kind, by rw [hdev]; rfl,
      by rw [hdev]; rfl, hframe.others⟩
  exact ⟨fun h => completes true (by rw [devTest, h]), fun h => completes false (by rw [devTest, h])⟩

end Sys2Proof.Machine
end

section
/-! SUPPORT. The faults that a step and its instructions can take (60_exceptions.md R230 to R241): every latched fault is a
possible one, the unimplemented opcodes trap, and ArithmeticFault comes from a zero divisor only. -/

namespace Sys2Proof.Machine

/-- Settles O13: a step leaves the latch as it was or puts a possible fault there (`step_fault`). -/
theorem latchedFaultsArePossible : Obligations.LatchedFaultsArePossible := by
  intro s t hs hst k hk
  rcases step_fault hst with hkept | ⟨j, hj, hposs⟩
  · exact hs k (hkept ▸ hk)
  · obtain rfl : j = k := Option.some.inj (hj.symm.trans hk)
    exact hposs

/-- Settles O48: each of the 15 raises its fault whatever its fields and the state hold. -/
theorem unimplementedOpcodesTrap : Obligations.UnimplementedOpcodesTrap := by
  intro s m r1 r2
  and_intros
  all_goals exact traps_of_exec rfl

/-! ### The checks and reads never raise ArithmeticFault -/

section
variable (s : State) (m : Operand)

theorem resolve_ne_arithmetic : resolve s m ≠ .error .arithmetic := by
  intro h
  rcases resolve_error h with ⟨_, _, -, -, -, hk⟩ | ⟨_, -, hk⟩ <;> cases hk

theorem operandWord_ne_arithmetic : operandWord s m ≠ .error .arithmetic := by
  intro h
  rcases operandWord_error h with h | ⟨_, -, hk⟩
  · exact resolve_ne_arithmetic s m h
  · cases hk

theorem operandByte_ne_arithmetic : operandByte s m ≠ .error .arithmetic := by
  intro h
  rcases operandByte_error h with h | ⟨_, -, hk⟩
  · exact resolve_ne_arithmetic s m h
  · cases hk

theorem memRead6_ne_arithmetic (a : Int) : memRead6 s a ≠ .error .arithmetic := by
  rcases memRead6_cases s a with ⟨-, he⟩ | ⟨-, he⟩ <;> simp [he]

end

theorem checkReg_ne_arithmetic (mn : String) (k : BitVec 4) : checkReg mn k ≠ .error .arithmetic := by
  intro h
  rcases checkReg_error h with ⟨-, hk⟩ | ⟨-, hk⟩ <;> cases hk

/-! ### The outcomes that do not put ArithmeticFault into the latch -/

/-- Not the outcome of taking ArithmeticFault: the latch holds it only where it held it in `s`. -/
def NotArithmetic (s : State) (r : StepResult) : Prop :=
  ∀ t, r = .next t → t.fault = some .arithmetic → s.fault = some .arithmetic

section
variable {s : State}

theorem notArithmetic_of_fault_eq {t : State} (h : t.fault = s.fault) : NotArithmetic s (.next t) := by
  rintro _ ⟨⟩ ht
  exact h ▸ ht

theorem notArithmetic_set (r : Reg) (w : Word) : NotArithmetic s (.next (s.set r w)) :=
  notArithmetic_of_fault_eq (State.fault_set s r w)

theorem notArithmetic_of_deviceFault {t : State} {d : Byte} (h : t.fault = s.fault ∨ t.fault = some (.device d)) :
    NotArithmetic s (.next t) := by
  rcases h with h | h
  · exact notArithmetic_of_fault_eq h
  · rintro _ ⟨⟩ ht
    cases h.symm.trans ht

theorem unimplemented_notArithmetic (mn : String) : NotArithmetic s (unimplemented mn s) := by
  rintro _ ⟨⟩ ht
  cases ht

theorem onOk_notArithmetic {α : Type} {x : Except Fault α} {go : α → StepResult} (hx : x ≠ .error .arithmetic)
    (hgo : ∀ v, x = .ok v → NotArithmetic s (go v)) : NotArithmetic s (onOk x s go) := by
  intro t ht hk
  rcases onOk_cases ht with ⟨k, he, rfl⟩ | ⟨v, hv, ht⟩
  · obtain rfl : k = .arithmetic := Option.some.inj hk
    exact absurd he hx
  · exact hgo v hv t ht hk

section
variable (m : Operand)

theorem onOperandWord_notArithmetic {go : Int → StepResult} (hgo : ∀ v, NotArithmetic s (go v)) :
    NotArithmetic s (onOk (operandWord s m) s go) :=
  onOk_notArithmetic (operandWord_ne_arithmetic s m) fun v _ => hgo v

theorem onOperandByte_notArithmetic {go : Byte → StepResult} (hgo : ∀ v, NotArithmetic s (go v)) :
    NotArithmetic s (onOk (operandByte s m) s go) :=
  onOk_notArithmetic (operandByte_ne_arithmetic s m) fun v _ => hgo v

theorem onResolved_notArithmetic {go : Int → StepResult} (hgo : ∀ u, NotArithmetic s (go u)) :
    NotArithmetic s (onOk (resolve s m) s go) :=
  onOk_notArithmetic (resolve_ne_arithmetic s m) fun v _ => hgo v

theorem storeBytes_notArithmetic (bs : List Byte) : NotArithmetic s (storeBytes bs m s) := by
  refine onResolved_notArithmetic m fun u => ?_
  rcases memWrite_cases s u bs with ⟨-, he⟩ | ⟨-, he⟩ <;> rw [he]
  · rintro _ ⟨⟩ ht
    cases ht
  · exact notArithmetic_of_fault_eq rfl

theorem jumpIf_notArithmetic (c : Bool) : NotArithmetic s (jumpIf c m s) :=
  onResolved_notArithmetic m fun u => notArithmetic_of_fault_eq (by cases c <;> rfl)

end

theorem onCheckReg_notArithmetic {mn : String} {k : BitVec 4} {go : Reg → StepResult}
    (hgo : ∀ p, NotArithmetic s (go p)) : NotArithmetic s (onOk (checkReg mn k) s go) :=
  onOk_notArithmetic (checkReg_ne_arithmetic mn k) fun p _ => hgo p

theorem withRegs_notArithmetic {mn : String} {r1 r2 : BitVec 4} {go : Reg → Reg → StepResult}
    (hgo : ∀ p q, NotArithmetic s (go p q)) : NotArithmetic s (withRegs mn r1 r2 s go) :=
  onCheckReg_notArithmetic fun p => onCheckReg_notArithmetic fun q => hgo p q

end

/-- No instruction but DIV and DIVR takes ArithmeticFault: there is no overflow fault (60_exceptions.md R233). -/
theorem exec_notArithmetic {i : Instr} (hdiv : ∀ m, i ≠ .div m) (hdivr : ∀ r1 r2, i ≠ .divr r1 r2) (s : State) :
    NotArithmetic s (exec i s) := by
  cases i with
  | div m => exact absurd rfl (hdiv m)
  | divr r1 r2 => exact absurd rfl (hdivr r1 r2)
  | lda m | ldx m | ldl m | ldb m | lds m | ldt m | add m | sub m | mul m | and m | or m | comp m | tix m =>
    exact onOperandWord_notArithmetic m fun v => notArithmetic_of_fault_eq rfl
  | sta m | stx m | stl m | stb m | sts m | stt m | stsw m | stch m | stf m => exact storeBytes_notArithmetic m _
  | j m | jeq m | jgt m | jlt m => exact jumpIf_notArithmetic m _
  | jsub m => exact onResolved_notArithmetic m fun u => notArithmetic_of_fault_eq rfl
  | rsub m => exact notArithmetic_set .pc _
  | ldch m => exact onOperandByte_notArithmetic m fun v => notArithmetic_set .a _
  | ldf m =>
    change NotArithmetic s (if isImmediate m then _ else _)
    split
    · exact unimplemented_notArithmetic "LDF"
    · exact onResolved_notArithmetic m fun u =>
        onOk_notArithmetic (memRead6_ne_arithmetic s u) fun f _ => notArithmetic_of_fault_eq rfl
  | addr r1 r2 | subr r1 r2 | mulr r1 r2 | rmo r1 r2 =>
    exact withRegs_notArithmetic fun p q => notArithmetic_set q _
  | compr r1 r2 => exact withRegs_notArithmetic fun p q => notArithmetic_set .sw _
  | shiftl r1 r2 | shiftr r1 r2 | clear r1 r2 => exact onCheckReg_notArithmetic fun p => notArithmetic_set p _
  | tixr r1 r2 => exact onCheckReg_notArithmetic fun p => notArithmetic_of_fault_eq rfl
  | rd m =>
    exact onOperandByte_notArithmetic m fun d => notArithmetic_of_deviceFault (finishRead_fault d s)
  | wd m =>
    exact onOperandByte_notArithmetic m fun d => notArithmetic_of_deviceFault (finishWrite_fault d _ s)
  | td m =>
    exact onOperandByte_notArithmetic m fun d => notArithmetic_of_deviceFault (finishTest_fault d s)
  | addf | subf | mulf | divf | compf | float | fix | norm | sio | hio | tio | svc | lps | sti | ssk =>
    exact unimplemented_notArithmetic _

/-! ### Division -/

section
variable {s : State}

/-- DIV takes ArithmeticFault on a zero operand only (44_arith_logic_compare.md R194). -/
theorem operandWord_eq_zero_of_div {m : Operand} (h : ¬NotArithmetic s (exec (.div m) s)) :
    operandWord s m = .ok 0 := by
  refine Classical.byContradiction fun hne =>
    h (onOk_notArithmetic (operandWord_ne_arithmetic s m) fun v hv => ?_)
  split
  next h0 => exact absurd (h0 ▸ hv) hne
  next => exact notArithmetic_set .a _

/-- DIVR takes ArithmeticFault on two slots of which the first reads 0 only (42_format2.md R145). -/
theorem read_eq_zero_of_divr {r1 r2 : BitVec 4} (h : ¬NotArithmetic s (exec (.divr r1 r2) s)) :
    ∃ p q, r1 = regIndex p ∧ r2 = regIndex q ∧ s.read p = 0 := by
  refine Classical.byContradiction fun hne => h (onOk_notArithmetic (checkReg_ne_arithmetic _ r1) fun p hp =>
    onOk_notArithmetic (checkReg_ne_arithmetic _ r2) fun q hq => ?_)
  have h1 := eq_regIndex_of_slotOf (slotOf_of_checkReg hp)
  have h2 := eq_regIndex_of_slotOf (slotOf_of_checkReg hq)
  dsimp only
  split
  next h0 => exact absurd ⟨p, q, h1, h2, h0⟩ hne
  next => exact notArithmetic_set q _

end

/-- Settles O35: the two traps, and that only they put ArithmeticFault into the latch. -/
theorem divisionByZeroTraps : Obligations.DivisionByZeroTraps := by
  refine ⟨fun s m h => traps_of_exec ?div, fun s p q h => traps_of_exec ?divr, fun i s t he hs ht => ?only⟩
  case div => rw [exec, execDiv, h, onOk_ok, if_pos rfl, raise_eq]
  case divr => rw [exec, execDivr, withRegs_regIndex, if_pos h, raise_eq]
  case only =>
    have htaken : ¬NotArithmetic s (exec i s) := fun h => hs (h t he ht)
    cases i with
    | div m => exact .inl ⟨m, rfl, operandWord_eq_zero_of_div htaken⟩
    | divr r1 r2 =>
      obtain ⟨p, q, rfl, rfl, h0⟩ := read_eq_zero_of_divr htaken
      exact .inr ⟨p, q, rfl, h0⟩
    | _ => exact absurd (exec_notArithmetic (by simp) (by simp) s) htaken

end Sys2Proof.Machine
end

section
/-! SUPPORT. A device operation that fails, and the step that goes on with a blocked read (60_exceptions.md R234, R249). -/

namespace Sys2Proof.Machine

/-! ### The operations that fail -/

section
variable {d : Byte} {s : State}

/-- A read that fails leaves every register, A included (60_exceptions.md R234). -/
theorem finishRead_frame_of_failed {t : State} (h : devRead d s = .failed t) :
    DeviceFrame [] d s (finishRead d s) :=
  { finishRead_frame d s with
    regs := by
      obtain ⟨-, -, ha⟩ := finishRead_of_failed h
      intro r _
      by_cases hr : r = .a
      · rw [hr, ha]
      · exact sameRegsExcept_finishRead d s r (by simpa using hr) }

/-- A write that fails takes DeviceFault; what it leaves in its device is the environment's (40_decode_and_address.md
R118). -/
theorem finishWrite_of_failed {v : Byte} {left : Device} (hkind : (s.device d).kind ≠ .input)
    (h : s.writeAnswer d v = .failed left) :
    finishWrite d v s =
      (s.writeAnswered.setDevice d (Device.afterFailure (s.device d) left)).setFault (some (.device d)) := by
  have hfailed : devWrite d v s =
      .failed (s.writeAnswered.setDevice d (Device.afterFailure (s.device d) left)) := by
    unfold devWrite
    split
    case h_1 hin => exact absurd hin hkind
    all_goals simp [h]
  rw [finishWrite, hfailed]

/-- A test that fails takes DeviceFault and leaves every device (40_decode_and_address.md R118). -/
theorem finishTest_of_failed (h : s.testAnswer d = .failed) :
    finishTest d s = s.testAnswered.setFault (some (.device d)) := by
  have hfailed : devTest d s = .failed s.testAnswered := by rw [devTest, h]
  rw [finishTest, hfailed]

/-- A test that fails leaves every register, SW included (60_exceptions.md R234). -/
theorem finishTest_frame_of_failed (h : s.testAnswer d = .failed) : DeviceFrame [] d s (finishTest d s) :=
  { finishTest_frame d s with regs := fun r _ => by simp [finishTest_of_failed h] }

end

/-- Settles O54: in each of the three the frame is that of the device operation, without the register it would write. -/
theorem deviceFailureTraps : Obligations.DeviceFailureTraps := by
  intro s m d hd trapped
  have traps_of_frame {i : Instr} {t : State} {post : State → Prop} (he : exec i s = .next t)
      (hfault : t.fault = some (.device d)) (hframe : DeviceFrame [] d s t) (hpost : post t) : trapped i post :=
    ⟨t, he, hfault, hframe.regs, hframe.regF, hframe.memory, hframe.others, hframe.kind, hframe.run, hframe.speed,
      hpost⟩
  refine ⟨fun left hout herr hfail => ?read, fun left v hv hkind hfail => ?write, fun hfail => ?test⟩
  case read =>
    have hread := devRead_of_asked hout herr hfail
    obtain ⟨hfault, -, -⟩ := finishRead_of_failed hread
    exact traps_of_frame (exec_rd_of_operandByte hd) hfault (finishRead_frame_of_failed hread) trivial
  case write =>
    have hlow : lowByte (s.get .a) = v := BitVec.eq_of_toNat_eq (by rw [lowByte_toNat, hv])
    have he := finishWrite_of_failed hkind hfail
    exact traps_of_frame (by rw [exec_wd_of_operandByte hd, hlow]) (by rw [he]; rfl) (finishWrite_frame d v s)
      (by rw [he]; rfl)
  case test =>
    have he := finishTest_of_failed hfail
    exact traps_of_frame (exec_td_of_operandByte hd) (by rw [he]; rfl) (finishTest_frame_of_failed hfail)
      (by rw [he]; exact ⟨rfl, rfl⟩)

/-! ### The step that goes on with a blocked read -/

/-- The immediate operand whose byte is the index of a slot. -/
def immediateSlot (d : Byte) : Operand := .f4 ⟨false, true, false, false, false⟩ (d.setWidth 20)

theorem operandByte_immediateSlot (s : State) (d : Byte) : operandByte s (immediateSlot d) = .ok d := by
  have hraw : rawOperand (immediateSlot d) = d.toNat := BitVec.toNat_setWidth_of_le (by decide)
  rw [operandByte_of_immediate rfl, hraw, BitVec.ofNat_toNat, BitVec.setWidth_eq]

/-- A step that waits on a slot's read does what an RD of that slot does (60_exceptions.md R249). -/
theorem step_of_waiting_eq_exec_rd {s : State} {d : Byte} (hf : s.fault = none) (hw : s.waiting = some d) :
    step s = exec (.rd (immediateSlot d)) s := by
  rw [step_of_waiting hf hw, exec_rd_of_operandByte (operandByte_immediateSlot s d)]

/-- A read without a byte changes nothing but the wait and the environment's answers (60_exceptions.md R249). -/
theorem finishRead_of_noByteYet {s : State} {d : Byte} (hout : (s.device d).kind ≠ .output)
    (herr : (s.device d).kind ≠ .error) (h : s.readAnswer d = .noByteYet) :
    finishRead d s = s.readAnswered.setWaiting (some d) := by
  rw [finishRead, devRead_of_asked hout herr h, readOutcome]

/-- Settles O11: the answers are those of RD (`readDeviceResult`), met with an empty latch. -/
theorem waitingStepResumes : Obligations.WaitingStepResumes := by
  intro s d hf hw hout herr lowA frame
  obtain ⟨-, hasked⟩ := readDeviceResult s (immediateSlot d) d (operandByte_immediateSlot s d)
  rw [← step_of_waiting_eq_exec_rd hf hw] at hasked
  obtain ⟨hbyte, hend, hblocked, hfailed⟩ := hasked hout herr
  refine ⟨fun hnone => ?noByteYet, fun v hv => ?byte, fun he => ?endOfStream, fun left hl => ?failed⟩
  case noByteYet =>
    obtain ⟨t, hst, hwait, ha, hfault, hframe, -⟩ := hblocked hnone
    have hdevices : t.devices = s.devices := by
      obtain rfl := Host.Outcome.next.inj (hst.symm.trans (step_of_waiting hf hw))
      rw [finishRead_of_noByteYet hout herr hnone]
      rfl
    exact ⟨t, hst, hwait, (State.report_eq_unfinished t).2 ⟨hfault.trans hf, by simp [hwait]⟩, ha, hframe, hdevices⟩
  case byte =>
    obtain ⟨t, hst, ha, hwait, hfault, hframe, hdev⟩ := hbyte v hv
    exact ⟨t, hst, hwait, (State.report_eq_ok t).2 ⟨hfault.trans hf, hwait⟩, ha, hframe, hdev⟩
  case endOfStream =>
    obtain ⟨t, hst, ha, hwait, hfault, hframe, hdev⟩ := hend he
    exact ⟨t, hst, hwait, (State.report_eq_ok t).2 ⟨hfault.trans hf, hwait⟩, ha, hframe, hdev⟩
  case failed =>
    obtain ⟨t, hst, hfault, hwait, ha, hframe⟩ := hfailed left hl
    exact ⟨t, hst, hwait, (State.report_eq_halt t _).2 hfault, ha, hframe⟩

end Sys2Proof.Machine
end

section
/-! SUPPORT. The clock controller (60_exceptions.md R251, 70_reset_and_hazards.md R268, R271). -/

namespace Sys2Proof.Machine

theorem clampSpeed_of_mem {hz : Nat} (h1 : 1 ≤ hz) (h2 : hz ≤ Config.maxRate) : clampSpeed hz = hz := by
  rw [clampSpeed, if_neg (by omega), if_neg (by omega)]

theorem clampSpeed_of_lt {hz : Nat} (h : hz < 1) : clampSpeed hz = 1 := if_pos h

theorem clampSpeed_of_gt {hz : Nat} (h : Config.maxRate < hz) : clampSpeed hz = Config.maxRate := by
  rw [clampSpeed, if_neg (by omega), if_pos h]

/-- Where the speed divides the rate, the interval is the quotient. -/
theorem tickInterval_mul_of_dvd {hz : Nat} (hdvd : clampSpeed hz ∣ Config.maxRate) :
    tickInterval hz * clampSpeed hz = Config.maxRate := by
  rw [tickInterval, if_pos (Nat.mod_eq_zero_of_dvd hdvd), Nat.div_mul_cancel hdvd]

/-- The interval is less than 1 ns off the quotient, to either side (70_reset_and_hazards.md R271). -/
theorem tickInterval_mul_bounds (hz : Nat) :
    tickInterval hz * clampSpeed hz < Config.maxRate + clampSpeed hz ∧
      Config.maxRate < (tickInterval hz + 1) * clampSpeed hz := by
  have hdiv := Nat.div_add_mod' Config.maxRate (clampSpeed hz)
  have hmod := Nat.mod_lt Config.maxRate (clampSpeed_bounds hz).1
  unfold tickInterval
  generalize Config.maxRate = rate at *
  generalize clampSpeed hz = speed at *
  split
  next => rw [Nat.succ_mul]; omega
  next =>
    split
    all_goals simp only [Nat.succ_mul]; omega

theorem clockIsRunning_eq_true_iff (s : State) : clockIsRunning s = true ↔ ∃ n, s.run = .running n := by
  unfold clockIsRunning
  split <;> simp_all

theorem tick_of_running {s : State} (h : clockIsRunning s = true) : tick s = step s := by
  obtain ⟨n, hn⟩ := (clockIsRunning_eq_true_iff s).1 h
  rw [tick, hn]

theorem tick_of_stopped {s : State} (h : clockIsRunning s = false) : tick s = .next s := by
  cases hrun : s.run with
  | stopped => rw [tick, hrun]
  | running n => simp [clockIsRunning, hrun] at h

/-- Settles O57: the clamp by its three ranges, the interval through the clamped speed, the tick by the state of the
clock. -/
theorem clockControllerLaws : Obligations.ClockControllerLaws := by
  intro s hz
  refine ⟨clampSpeed_of_lt, clampSpeed_of_gt, clampSpeed_of_mem, rfl, rfl, rfl, rfl, fun h1 h2 => ?interval,
    tick_of_running, tick_of_stopped⟩
  case interval =>
    have hclamp := clampSpeed_of_mem h1 h2
    have hwhole := tickInterval_mul_of_dvd (hz := s.speed)
    have hbounds := tickInterval_mul_bounds s.speed
    rw [hclamp] at hwhole hbounds
    exact ⟨_, rfl, hwhole, hbounds⟩

end Sys2Proof.Machine
end

section
/-! SUPPORT. The finished machine (70_reset_and_hazards.md R269): a jump writes its target to PC and changes nothing else, so
one whose target is its own address undoes what its fetch did. -/

namespace Sys2Proof.Machine

/-- A jump that is taken writes its target to PC (45_jump.md R210). -/
theorem jumpIf_of_taken {c : Bool} {m : Operand} {s : State} {u : Int} (hc : c = true) (hu : resolve s m = .ok u) :
    jumpIf c m s = .next (s.write .pc u) := by
  rw [jumpIf, hu, onOk_ok, if_pos hc]

/-- JSUB is a plain jump once L holds its return address (45_jump.md R215). -/
theorem exec_jsub_of_linked {m : Operand} {s : State} {u : Int} (hl : s.get .l = s.get .pc)
    (hu : resolve s m = .ok u) : exec (.jsub m) s = .next (s.write .pc u) := by
  rw [exec_jsub_of_resolve hu, ← hl, State.set_get, State.write]

/-- RSUB writes L, as it reads, to PC (45_jump.md R216). -/
theorem exec_rsub (m : Operand) (s : State) : exec (.rsub m) s = .next (s.write .pc (s.read .l)) := by
  rw [State.write, State.read, trunc24_s24]
  rfl

theorem set_pc_eq_write (s : State) (w : Word) : s.set .pc w = s.write .pc ((s.set .pc w).read .pc) := by
  rw [State.read, State.get_set_self, State.write, trunc24_s24]

/-- An instruction that stores writes no integer slot. -/
theorem writeSet_of_storesToMemory {i : Instr} (h : storesToMemory i = true) : writeSet i = [] := by
  cases i with
  | sta | stx | stl | stb | sts | stt | stsw | stch | stf => rfl
  | _ => cases h

/-- An instruction that can write PC only and takes no fault writes to PC what PC then reads as. -/
theorem eq_write_pc_of_exec {i : Instr} {s t : State} (hi : writeSet i = [.pc]) (he : exec i s = .next t)
    (ht : t.fault = none) : t = s.write .pc (t.read .pc) := by
  cases effect_of_exec he with
  | traps k => cases ht
  | keeps => exact (State.write_read_self s .pc).symm
  | sets hr w =>
    obtain rfl : _ = Reg.pc := by simpa [hi] using hr
    exact set_pc_eq_write s w
  | setsTwo hr hq w v =>
    obtain rfl : _ = Reg.pc := by simpa [hi] using hr
    obtain rfl : _ = Reg.pc := by simpa [hi] using hq
    rw [State.set_set]
    exact set_pc_eq_write s v
  | stores hst => cases hi.symm.trans (writeSet_of_storesToMemory hst)
  | loadsFloat hm | readsDevice hm | writesDevice hm | testsDevice hm =>
    obtain ⟨m, rfl⟩ := hm
    cases hi

/-- A Format-2 write to index 8 is a jump to the written value (42_format2.md R140). -/
theorem exec_of_writtenToPC {i : Instr} {s : State} {u : Int} (hi : writeSet i = [.pc])
    (h : writtenToPC i s = some u) : exec i s = .next (s.write .pc u) := by
  obtain ⟨t, he, ht, rfl⟩ := writtenToPC_eq_some.1 h
  rw [he, ← eq_write_pc_of_exec hi he ht]

/-- Every jump that is taken, whatever its instruction, writes its target to PC and changes nothing else. -/
theorem exec_of_takenJumpTarget {i : Instr} {s : State} {u : Int} (h : takenJumpTarget i s = some u) :
    exec i s = .next (s.write .pc u) := by
  unfold takenJumpTarget at h
  cases i with
  | j m | jeq m | jgt m | jlt m =>
    dsimp only at h
    split at h <;> cases h
    exact jumpIf_of_taken (by assumption) (by assumption)
  | jsub m =>
    dsimp only at h
    split at h <;> cases h
    exact exec_jsub_of_linked (eq_of_beq (by assumption)) (by assumption)
  | rsub m =>
    cases h
    exact exec_rsub m s
  | addr _ k | subr _ k | mulr _ k | divr _ k | rmo _ k | shiftl k _ | shiftr k _ | clear k _ =>
    obtain ⟨rfl, h⟩ := Option.ite_none_right_eq_some.1 h
    exact exec_of_writtenToPC rfl h
  | _ => cases h

/-- A step of a spinning machine fetches the jump and comes back to where it was. -/
theorem step_of_spins {s : State} (h : s.spins = true) : step s = .next s := by
  obtain ⟨hf, hw, i, t, hi, htarget⟩ := State.spins_cases h
  obtain ⟨-, v, rfl⟩ := fetchInstr_instr hi
  rw [step_of_instr hf hw hi, exec_of_takenJumpTarget htarget, State.write_write, State.write_read_self]

/-- Settles O21: a spin comes back to its state (`step_of_spins`), and a latched fault freezes the step. -/
theorem finishedStateIsAFixedPoint : Obligations.FinishedStateIsAFixedPoint := by
  intro s h
  rcases s.finished_iff.1 h with hspins | hfault
  · exact step_of_spins hspins
  · obtain ⟨k, hk⟩ := Option.isSome_iff_exists.1 hfault
    exact step_of_fault hk

end Sys2Proof.Machine
end

section
/-! SUPPORT. Hexadecimal text: the digits the loader accepts, the numbers and bytes they write, and their reading of what
`hexText` writes (70_reset_and_hazards.md R266). -/

namespace Sys2Proof.Machine

/-! ### Digits and numbers -/

/-- A digit that is written reads back. -/
theorem hexDigit_upperHexDigit {v : Nat} (h : v < 16) : hexDigit (upperHexDigit v) = some v := by
  have hall : ∀ w : Fin 16, hexDigit (upperHexDigit w) = some w.val := by decide
  exact hall ⟨v, h⟩

theorem hexNumber_cons (acc : Nat) (c : Char) (cs : List Char) :
    hexNumber acc (c :: cs) = (hexDigit c).bind fun v => hexNumber (acc * 16 + v) cs := by
  rw [hexNumber]
  cases hexDigit c <;> rfl

theorem hexNumber_append (acc : Nat) (cs ds : List Char) :
    hexNumber acc (cs ++ ds) = (hexNumber acc cs).bind fun v => hexNumber v ds := by
  induction cs generalizing acc with
  | nil => rfl
  | cons c cs ih => simp [hexNumber_cons, ih, Option.bind_assoc]

/-- Text is a number exactly when every character is a digit. -/
theorem hexNumber_isSome (acc : Nat) (cs : List Char) :
    (hexNumber acc cs).isSome = cs.all fun c => (hexDigit c).isSome := by
  induction cs generalizing acc with
  | nil => rfl
  | cons c cs ih =>
    rw [hexNumber_cons, List.all_cons]
    cases hexDigit c with
    | none => rfl
    | some v => exact ih _

@[simp] theorem hexText_length (n v : Nat) : (hexText n v).length = n := by
  induction n generalizing v with
  | zero => rfl
  | succ n ih => simp [hexText, ih]

/-- A number that fits its digits reads back. -/
theorem hexNumber_hexText {n v : Nat} (h : v < 16 ^ n) (acc : Nat) :
    hexNumber acc (hexText n v) = some (acc * 16 ^ n + v) := by
  induction n generalizing v with
  | zero =>
    obtain rfl : v = 0 := by simpa using h
    simp [hexText, hexNumber]
  | succ n ih =>
    have hdiv : v / 16 < 16 ^ n := by omega
    have hdigit : hexDigit (upperHexDigit (v % 16)) = some (v % 16) := hexDigit_upperHexDigit (by omega)
    rw [hexText, hexNumber_append, ih hdiv]
    simp only [Option.bind_some, hdigit, hexNumber, Nat.pow_succ]
    congr 1
    rw [Nat.add_mul, Nat.mul_assoc]
    omega

/-! ### Bytes -/

theorem hexBytes_cons_cons (c d : Char) (cs : List Char) :
    hexBytes (c :: d :: cs) = (hexNumber 0 [c, d]).bind fun v => (hexBytes cs).map (BitVec.ofNat 8 v :: ·) := by
  rw [hexBytes]
  cases hexNumber 0 [c, d] <;> cases hexBytes cs <;> rfl

/-- Text is bytes exactly when its digits come in pairs. -/
theorem hexBytes_isSome : ∀ cs : List Char,
    (hexBytes cs).isSome = (cs.length % 2 == 0 && cs.all fun c => (hexDigit c).isSome)
  | [] => rfl
  | [_] => rfl
  | c :: d :: cs => by
    have hpair := hexNumber_isSome 0 [c, d]
    have hrest := hexBytes_isSome cs
    have hparity : (c :: d :: cs).length % 2 = cs.length % 2 := Nat.add_mod_right cs.length 2
    rw [hexBytes_cons_cons, hparity]
    cases hn : hexNumber 0 [c, d] with
    | none => simp_all
    | some v => simp_all

/-- Each byte is written by two digits. -/
theorem length_of_hexBytes : ∀ {cs : List Char} {bs : List Byte}, hexBytes cs = some bs → cs.length = 2 * bs.length
  | [], bs, h => by cases h; rfl
  | [_], _, h => by cases h
  | c :: d :: cs, bs, h => by
    rw [hexBytes_cons_cons] at h
    obtain ⟨v, -, h⟩ := Option.bind_eq_some_iff.1 h
    obtain ⟨rest, hrest, rfl⟩ := Option.map_eq_some_iff.1 h
    have := length_of_hexBytes hrest
    simp only [List.length_cons]
    omega

theorem hexText_two (v : Nat) : hexText 2 v = [upperHexDigit (v / 16 % 16), upperHexDigit (v % 16)] := rfl

/-- Bytes that are written read back. -/
theorem hexBytes_flatMap_hexText (bs : List Byte) : hexBytes (bs.flatMap fun v => hexText 2 v.toNat) = some bs := by
  induction bs with
  | nil => rfl
  | cons v bs ih =>
    have hv : hexNumber 0 (hexText 2 v.toNat) = some (0 * 16 ^ 2 + v.toNat) := hexNumber_hexText v.isLt 0
    rw [hexText_two] at hv
    rw [List.flatMap_cons, hexText_two, List.cons_append, List.cons_append, List.nil_append, hexBytes_cons_cons, ih, hv,
      Nat.zero_mul, Nat.zero_add, Option.bind_some, Option.map_some, BitVec.ofNat_toNat, BitVec.setWidth_eq]

/-! ### Fields -/

theorem hexField_of_short {n : Nat} {cs : List Char} (h : cs.length < n) : hexField n cs = none := if_pos h

/-- A field is its digits' number, with the text after it. -/
theorem hexField_append {n : Nat} {ds : List Char} (h : ds.length = n) (cs : List Char) :
    hexField n (ds ++ cs) = (hexNumber 0 ds).map (·, cs) := by
  subst h
  rw [hexField, if_neg (by simp), List.take_left, List.drop_left]
  cases hexNumber 0 ds <;> rfl

/-- All that a field can be: too short, or cut off with the number of its digits, if they are digits. -/
theorem hexField_cases (n : Nat) (cs : List Char) :
    (cs.length < n ∧ hexField n cs = none) ∨
      ∃ ds rest, ds.length = n ∧ cs = ds ++ rest ∧ hexField n cs = (hexNumber 0 ds).map (·, rest) := by
  by_cases h : cs.length < n
  · exact .inl ⟨h, hexField_of_short h⟩
  · have hlen : (cs.take n).length = n := List.length_take_of_le (by omega)
    refine .inr ⟨cs.take n, cs.drop n, hlen, (List.take_append_drop n cs).symm, ?_⟩
    rw [← hexField_append hlen, List.take_append_drop]

theorem hexField_hexText {n v : Nat} (h : v < 16 ^ n) (cs : List Char) :
    hexField n (hexText n v ++ cs) = some (v, cs) := by
  simp [hexField_append, hexNumber_hexText h]

/-! ### Records -/

/-- A T record, after its letter, cut into the six digits of its address, the two of its length, and its bytes. -/
theorem parseText_append {as ls : List Char} (ha : as.length = 6) (hl : ls.length = 2) (cs : List Char) :
    parseText (as ++ (ls ++ cs)) =
      (hexNumber 0 as).bind fun addr => (hexNumber 0 ls).bind fun len => (hexBytes cs).bind fun bs =>
        if bs.length = len then some (.text addr bs) else none := by
  rw [parseText, hexField_append ha]
  cases hexNumber 0 as with
  | none => rfl
  | some addr =>
    simp only [Option.map_some, Option.bind_some, hexField_append hl]
    cases hexNumber 0 ls with
    | none => rfl
    | some len =>
      simp only [Option.map_some, Option.bind_some]
      cases hexBytes cs <;> rfl

/-- The grammar of such a T record in the loader's own terms: its parts read as numbers and bytes, and the length is that of
the bytes. -/
theorem wellFormedRecord_text {as ls : List Char} (ha : as.length = 6) (hl : ls.length = 2) (cs : List Char) :
    wellFormedRecord ('T' :: (as ++ (ls ++ cs))) =
      ((hexNumber 0 as).isSome && (hexNumber 0 ls).isSome && (hexBytes cs).isSome &&
        hexNumber 0 ls == some (cs.length / 2)) := by
  have hlength : (as ++ (ls ++ cs)).length = cs.length + 8 := by
    simp only [List.length_append]
    omega
  have hdrop : ((as ++ (ls ++ cs)).drop 6).take 2 = ls := by
    rw [← ha, List.drop_left, ← hl, List.take_left]
  have hparity : (cs.length + 8) % 2 = cs.length % 2 := by omega
  rw [wellFormedRecord, hdrop, hlength, hparity, Nat.add_sub_cancel, decide_eq_true (by omega), List.all_append,
    List.all_append, hexNumber_isSome, hexNumber_isSome, hexBytes_isSome, Bool.true_and]
  ac_rfl

/-- A T record is read exactly when it has its digits, an even number of them, and as many bytes as it says. -/
theorem parseText_isSome (cs : List Char) : (parseText cs).isSome = wellFormedRecord ('T' :: cs) := by
  rcases hexField_cases 6 cs with ⟨hlen, hfield⟩ | ⟨as, cs, ha, rfl, hfield⟩
  · have hshort : ¬8 ≤ cs.length := by omega
    simp [parseText, hfield, wellFormedRecord, hshort]
  rcases hexField_cases 2 cs with ⟨hlen, hfield2⟩ | ⟨ls, cs, hl, rfl, -⟩
  · have hshort : ¬8 ≤ (as ++ cs).length := by rw [List.length_append]; omega
    have hnone : parseText (as ++ cs) = none := by
      rw [parseText, hfield]
      cases hexNumber 0 as with
      | none => rfl
      | some addr => simp [hfield2]
    simp only [hnone, wellFormedRecord, hshort]
    rfl
  rw [parseText_append ha hl, wellFormedRecord_text ha hl]
  cases hexNumber 0 as with
  | none => rfl
  | some addr =>
    cases hexNumber 0 ls with
    | none => rfl
    | some len =>
      cases hcs : hexBytes cs with
      | none => rfl
      | some bs =>
        have hbytes : cs.length / 2 = bs.length := by
          have := length_of_hexBytes hcs
          omega
        by_cases h : bs.length = len
        · simp [hbytes, h]
        · simp [hbytes, h, Ne.symm h]

/-- An E record is read exactly when it is six digits. -/
theorem parseEntry_isSome (cs : List Char) : (parseEntry cs).isSome = wellFormedRecord ('E' :: cs) := by
  rw [parseEntry, wellFormedRecord]
  rcases hexField_cases 6 cs with ⟨hlen, hfield⟩ | ⟨ds, rest, hd, rfl, hfield⟩ <;> rw [hfield]
  · have hne : cs.length ≠ 6 := by omega
    simp [hne]
  · have hdigits := hexNumber_isSome 0 ds
    cases rest with
    | nil =>
      rw [List.append_nil, ← hdigits, hd]
      cases hexNumber 0 ds <;> rfl
    | cons c rest => cases hexNumber 0 ds <;> simp [hd]

/-- The loader reads exactly the lines that the grammar admits (70_reset_and_hazards.md R266). -/
theorem parseRecord_isSome (line : List Char) : (parseRecord line).isSome = wellFormedRecord line := by
  unfold parseRecord
  split
  · exact parseText_isSome _
  · exact parseEntry_isSome _
  · rfl
  · rfl
  · unfold wellFormedRecord
    split <;> simp_all

/-- A T record that is written is read when its length agrees with its bytes, and is malformed else. -/
theorem parseRecord_text {addr len : Nat} (haddr : addr < 16777216) (hlen : len < 256) (bs : List Byte) :
    parseRecord ('T' :: (hexText 6 addr ++ hexText 2 len ++ bs.flatMap fun v => hexText 2 v.toNat)) =
      if bs.length = len then some (.text addr bs) else none := by
  rw [List.append_assoc, parseRecord, parseText_append (hexText_length 6 addr) (hexText_length 2 len),
    hexNumber_hexText haddr, hexNumber_hexText hlen, hexBytes_flatMap_hexText]
  simp

theorem parseRecord_entry {addr : Nat} (haddr : addr < 16777216) :
    parseRecord ('E' :: hexText 6 addr) = some (.entry addr) := by
  have hfield := hexField_hexText (n := 6) haddr []
  rw [List.append_nil] at hfield
  rw [parseRecord, parseEntry, hfield]

end Sys2Proof.Machine
end

section
/-! SUPPORT. What the host's lines of an object program do (70_reset_and_hazards.md R264, R266, 20_memory.md R53, R64). -/

namespace Sys2Proof.Machine

/-! ### Lines between steps and while a step is blocked -/

/-- Between steps a line is refused as malformed exactly when it is no record: a record that ends in an error ends with an
address. -/
theorem hostAct_loadLine_malformed_iff {s : State} (hw : s.waiting = none) (line : List Char) :
    hostAct (.loadLine line) s = { state := s, error := some .malformedRecord } ↔ parseRecord line = none := by
  rw [hostAct_between hw, machineAction, loadLine]
  cases parseRecord line with
  | none => exact iff_of_true rfl rfl
  | some r => simp

/-- Between steps a line that is a record is applied. -/
theorem hostAct_loadLine_of_parse {s : State} (hw : s.waiting = none) {line : List Char} {r : ObjectRecord}
    (h : parseRecord line = some r) :
    hostAct (.loadLine line) s =
      { state := (applyRecord r s).1, error := (applyRecord r s).2.map HostError.addressRange } := by
  rw [hostAct_between hw, machineAction, loadLine, h]

/-- While a step is blocked the host can stop the clock and nothing else (20_memory.md R64, 60_exceptions.md R249). -/
theorem hostAct_of_waiting {s : State} {d : Byte} (hw : s.waiting = some d) (act : HostAction) :
    hostAct act s =
      if act = .stop then { state := clockStop s, error := none } else { state := s, error := some .busy } := by
  cases act with
  | stop => simp [hostAct, HostAction.passesBlockedStep, machineAction, hostDone]
  | _ => exact hostAct_blocked hw rfl

/-! ### The bytes of a T record -/

/-- The state after the bytes of a T record were written, as many of them as fit (20_memory.md R53). -/
def State.loadText (s : State) (addr : Nat) (bs : List Byte) : State :=
  s.setMem (s.mem.writeBytes addr (bs.take (0x100000 - addr)))

/-- Between steps a T record writes the bytes that fit, and ends with the first address that does not exist if one does
not. -/
theorem hostAct_textLine {s : State} {addr : Nat} {bs : List Byte} (hw : s.waiting = none) (hlen : bs.length < 256)
    (haddr : addr < 16777216) :
    hostAct (.loadLine (textLine addr bs)) s =
      { state := s.loadText addr bs
        error := if bs = [] ∨ addr + bs.length ≤ 0x100000 then none
          else some (.addressRange ((max addr 0x100000 : Nat) : Int)) } := by
  have hparse : parseRecord (textLine addr bs) = some (.text addr bs) := by
    rw [textLine, parseRecord_text haddr hlen, if_pos rfl]
  rw [hostAct_loadLine_of_parse hw hparse, applyRecord, loadBytes_eq, Config.memorySize, State.loadText,
    apply_ite (Option.map HostError.addressRange), Option.map_none, Option.map_some]

theorem loadText_of_fits {s : State} {addr : Nat} {bs : List Byte} (h : addr + bs.length ≤ 0x100000) :
    s.loadText addr bs = s.setMem (s.mem.writeBytes addr bs) := by
  rw [State.loadText, List.take_of_length_le (by omega)]

@[simp] theorem loadText_nil (s : State) (addr : Nat) : s.loadText addr [] = s := by
  rw [State.loadText, List.take_nil]
  rfl

theorem byteAt_loadText_add (s : State) {addr k : Nat} {bs : List Byte} (hk : k < bs.length)
    (hfits : addr + k ≤ 0xFFFFF) : (s.loadText addr bs).byteAt (addr + k) = bs[k] := by
  have hk' : k < (bs.take (0x100000 - addr)).length := by
    rw [List.length_take]
    omega
  rw [State.loadText, State.byteAt_setMem, Memory.read_writeBytes_add _ _ hk', List.getElem_take]

theorem byteAt_loadText_of_outside (s : State) {addr j : Nat} (bs : List Byte) (hj : j < addr ∨ 0xFFFFF < j) :
    (s.loadText addr bs).byteAt j = s.byteAt j := by
  have hlen : (bs.take (0x100000 - addr)).length ≤ 0x100000 - addr := List.length_take_le _ _
  rw [State.loadText, State.byteAt_setMem, Memory.read_writeBytes, dif_neg (by omega)]
  rfl

/-- Settles O58: written records are read (`parseRecord_text`, `parseRecord_entry`), the lines that are not read are those
outside the grammar (`parseRecord_isSome`), and a T record leaves `State.loadText`. -/
theorem objectRecordsLoad : Obligations.ObjectRecordsLoad := by
  refine ⟨fun s addr bs hw hlen hfits => ?fits, fun s addr bs hw hlen haddr hlong hne => ?long,
    fun s addr hw haddr => ?empty, fun s addr hw haddr => ?entry, fun s cs hw => ?ignored, fun s line hw => ?malformed,
    fun s addr len bs hw haddr hlen hne => ?badLength, fun s d act hw => hostAct_of_waiting hw act⟩
  case fits =>
    refine ⟨s.loadText addr bs, ?_, fun k hk => byteAt_loadText_add s hk (by omega), ?_, sameRegsExcept_setMem [] s _,
      rfl, sameRest_setMem s _⟩
    · rw [hostAct_textLine hw hlen (by omega), if_pos (.inr hfits)]
    · rw [loadText_of_fits hfits]
      exact sameMemoryOutside_writeBytes s (Int.natCast_nonneg addr) bs
  case long =>
    refine ⟨s.loadText addr bs, ?_, fun k hk => byteAt_loadText_add s hk,
      fun j hj => byteAt_loadText_of_outside s bs hj, sameRegsExcept_setMem [] s _, rfl, sameRest_setMem s _⟩
    rw [hostAct_textLine hw hlen haddr, if_neg (by simp [hne]; omega)]
  case empty =>
    rw [hostAct_textLine hw (by decide) haddr, if_pos (.inl rfl), loadText_nil]
  case entry =>
    refine ⟨s.write .pc addr, hostAct_loadLine_of_parse hw (parseRecord_entry haddr), ?_, fun r hr => ?_,
      State.byteAt_write s .pc addr, State.regF_write s .pc addr, by simp [SameRest]⟩
    · have htrunc := trunc24_toNat addr
      rw [State.get_write, if_pos rfl]
      omega
    · rw [State.get_write, if_neg (by simpa using hr)]
  case ignored =>
    exact ⟨hostAct_loadLine_of_parse hw (r := .ignored) rfl, hostAct_loadLine_of_parse hw (r := .ignored) rfl⟩
  case malformed =>
    rw [hostAct_loadLine_malformed_iff hw, ← parseRecord_isSome, Option.isSome_eq_false_iff, Option.isNone_iff_eq_none]
  case badLength =>
    rw [hostAct_loadLine_malformed_iff hw, parseRecord_text haddr hlen, if_neg (Ne.symm hne)]

end Sys2Proof.Machine
end
